-- ==== Sys2Proof/Word.lean ====
section
/-! DEFINITION. The bit widths of MEE-1: bytes, 32-bit bus and command words, aperture offsets, register
numbers (00_scope.md R6, R9; 10_state.md R25; 30_encoding.md R85). -/

namespace Sys2Proof

/-- One byte lane of a bus word (20_memory.md R62). -/
abbrev Byte := BitVec 8

/-- A bus word, a limb or a command word: 32 bits (00_scope.md R6). -/
abbrev Word := BitVec 32

/-- A byte offset within the 64 KiB aperture, the port `bus_addr` (10_state.md R25). -/
abbrev Offset := BitVec 16

/-- A register field: a 4-bit unsigned number, every value of which names a register (30_encoding.md R85). -/
abbrev RegNum := BitVec 4

end Sys2Proof
end

