-- ==== Sys2Proof/Syntax.lean ====
section
/-! DEFINITION. The twelve commands of MEE-1, one constructor per row of the opcode map (30_encoding.md R84), with
the fields each uses, in the order RD, RA, RB, RC (R83, R87). -/

namespace Sys2Proof

/-- A command. A field that the format requires to be zero is no argument (30_encoding.md R84). -/
inductive Instr where
  /-- No operation (44_move_and_control.md R170). -/
  | nop
  /-- Load a 16-bit immediate (44_move_and_control.md R171). -/
  | ldi (rd : RegNum) (imm : BitVec 16)
  /-- Copy a register (44_move_and_control.md R172). -/
  | mov (rd ra : RegNum)
  /-- Normalising reduction (41_modular_arithmetic.md R120). -/
  | mod (rd ra rb : RegNum)
  /-- Greatest common divisor (40_number_theory.md R102). -/
  | gcd (rd ra rb : RegNum)
  /-- Coprimality test (40_number_theory.md R104). -/
  | coprime (rd ra rb : RegNum)
  /-- Bézout coefficients: `s` to RD and `t` to RC (40_number_theory.md R112). -/
  | eea (rd ra rb rc : RegNum)
  /-- Modular product (41_modular_arithmetic.md R124). -/
  | modmul (rd ra rb rc : RegNum)
  /-- Modular exponentiation (41_modular_arithmetic.md R132). -/
  | modpow (rd ra rb rc : RegNum)
  /-- Modular inverse (42_modular_inverse.md R141). -/
  | modinv (rd ra rb : RegNum)
  /-- Checked exponentiation (43_cipher.md R151). -/
  | transform (rd ra rb rc : RegNum)
  /-- CRT decryption; RB names the first of five parameter registers (43_cipher.md R156). -/
  | crtdec (rd ra rb : RegNum)
deriving DecidableEq, Repr

end Sys2Proof
end

