-- ==== Sys2Proof/WellFormed.lean ====
section
/-! DEFINITION. Which commands have a legal word: the two constraints of 30_encoding.md R86 that the fields'
widths do not already give. -/

namespace Sys2Proof

/-- Conditions 3 and 4 of 30_encoding.md R86; every other command is legal at every field value (R85). -/
def Instr.wellFormed : Instr → Bool
  | .nop => true
  | .ldi _ _ => true
  | .mov _ _ => true
  | .mod _ _ _ => true
  | .gcd _ _ _ => true
  | .coprime _ _ _ => true
  | .eea rd _ _ rc => rd != rc
  | .modmul _ _ _ _ => true
  | .modpow _ _ _ _ => true
  | .modinv _ _ _ => true
  | .transform _ _ _ _ => true
  | .crtdec _ _ rb => decide (rb.toNat ≤ 11)

end Sys2Proof
end

