-- ==== Sys2Proof/Decode.lean ====
section
/-! DEFINITION. The decoder (30_encoding.md R80 to R90), total on every 32-bit word and rejecting by name, then the
encoder and the assembler's names for words (R91, R92), written from the same tables. -/

namespace Sys2Proof

/-- Why a word is illegal: the condition of 30_encoding.md R86 that it breaks. -/
inductive DecodeError where
  /-- Condition 1: the opcode is one of 0x0C..0x3F (R89). -/
  | reservedOpcode
  /-- Condition 2: a must-be-zero bit is set (R89). -/
  | mustBeZero
  /-- Condition 3: EEA with RD = RC. -/
  | sameDestinations
  /-- Condition 4: CRTDEC with RB > 11. -/
  | blockPastR15
  /-- Not a 32-bit word: fewer than four bytes were given. -/
  | tooShort
deriving DecidableEq, Repr

/-- A field's bits placed from bit `lo` of a word, as in `0x0A<<26 | 3<<22` (R94). -/
def place {n : Nat} (lo : Nat) (x : BitVec n) : Word := x.setWidth 32 <<< lo

/-- Bits [31:26], the opcode (R80). -/
def opField (w : Word) : BitVec 6 := w.extractLsb' 26 6

/-- Bits [25:22], RD (R83). -/
def rdField (w : Word) : RegNum := w.extractLsb' 22 4

/-- Bits [21:18], RA (R83). -/
def raField (w : Word) : RegNum := w.extractLsb' 18 4

/-- Bits [17:14], RB (R83). -/
def rbField (w : Word) : RegNum := w.extractLsb' 14 4

/-- Bits [13:10], RC (R83). -/
def rcField (w : Word) : RegNum := w.extractLsb' 10 4

/-- Bits [15:0], IMM16 (R82). -/
def immField (w : Word) : BitVec 16 := w.extractLsb' 0 16

/-- The column MASK of R84, by opcode. -/
def maskOf (op : BitVec 6) : Word :=
  match op.toNat with
  | 0x00 => 0xFFFFFFFF
  | 0x01 => 0xFC3F0000
  | 0x02 => 0xFC03FFFF
  | 0x03 => 0xFC003FFF
  | 0x04 => 0xFC003FFF
  | 0x05 => 0xFC003FFF
  | 0x06 => 0xFC0003FF
  | 0x07 => 0xFC0003FF
  | 0x08 => 0xFC0003FF
  | 0x09 => 0xFC003FFF
  | 0x0A => 0xFC0003FF
  | 0x0B => 0xFC003FFF
  | _ => 0

/-- The column MATCH of R84, by opcode. -/
def matchOf (op : BitVec 6) : Word :=
  match op.toNat with
  | 0x00 => 0x00000000
  | 0x01 => 0x04000000
  | 0x02 => 0x08000000
  | 0x03 => 0x0C000000
  | 0x04 => 0x10000000
  | 0x05 => 0x14000000
  | 0x06 => 0x18000000
  | 0x07 => 0x1C000000
  | 0x08 => 0x20000000
  | 0x09 => 0x24000000
  | 0x0A => 0x28000000
  | 0x0B => 0x2C000000
  | _ => 0

/-- `MNEMONIC[op]` of R90 applied to the fields of the word. -/
def instrOf (w : Word) : Except DecodeError Instr :=
  match (opField w).toNat with
  | 0x00 => .ok .nop
  | 0x01 => .ok (.ldi (rdField w) (immField w))
  | 0x02 => .ok (.mov (rdField w) (raField w))
  | 0x03 => .ok (.mod (rdField w) (raField w) (rbField w))
  | 0x04 => .ok (.gcd (rdField w) (raField w) (rbField w))
  | 0x05 => .ok (.coprime (rdField w) (raField w) (rbField w))
  | 0x06 => .ok (.eea (rdField w) (raField w) (rbField w) (rcField w))
  | 0x07 => .ok (.modmul (rdField w) (raField w) (rbField w) (rcField w))
  | 0x08 => .ok (.modpow (rdField w) (raField w) (rbField w) (rcField w))
  | 0x09 => .ok (.modinv (rdField w) (raField w) (rbField w))
  | 0x0A => .ok (.transform (rdField w) (raField w) (rbField w) (rcField w))
  | 0x0B => .ok (.crtdec (rdField w) (raField w) (rbField w))
  | _ => .error .reservedOpcode

/-- The decoding procedure of R90, its tests in its order. -/
def decode (w : Word) : Except DecodeError Instr :=
  if 0x0B < (opField w).toNat then .error .reservedOpcode
  else if w &&& maskOf (opField w) ≠ matchOf (opField w) then .error .mustBeZero
  else if (opField w).toNat = 0x06 ∧ rdField w = rcField w then .error .sameDestinations
  else if (opField w).toNat = 0x0B ∧ 11 < (rbField w).toNat then .error .blockPastR15
  else instrOf w

/-- Byte lane `b` of a word, bits [8b+7:8b] (20_memory.md R62). -/
def byteLane (w : Word) (b : Nat) : Byte := w.extractLsb' (8 * b) 8

/-- The word whose byte lanes 0 to 3 are the given bytes (20_memory.md R62: little-endian lanes). -/
def wordOfLanes (b0 b1 b2 b3 : Byte) : Word :=
  place 24 b3 ||| place 16 b2 ||| place 8 b1 ||| place 0 b0

/-- Decoding from bytes in the order a byte-addressing host sees them (20_memory.md R62): one command and the
bytes after it. -/
def decodeBytes : List Byte → Except DecodeError (Instr × List Byte)
  | b0 :: b1 :: b2 :: b3 :: rest =>
    match decode (wordOfLanes b0 b1 b2 b3) with
    | .ok i => .ok (i, rest)
    | .error e => .error e
  | _ => .error .tooShort

/-- What this decoder reads from a table row's word: the bits above `nbits` are zero, the four byte lanes are laid
out little-endian (20_memory.md R62) and decoded. -/
def decodeTableWord (nbits w : Nat) : Option Instr :=
  let word : Word := BitVec.ofNat 32 (w % 2 ^ nbits)
  if 32 < nbits then none
  else
    match decodeBytes [byteLane word 0, byteLane word 1, byteLane word 2, byteLane word 3] with
    | .ok (i, _) => some i
    | .error _ => none

/-- Format R (30_encoding.md R83): OP, RD, RA, RB, RC and ten zero bits. -/
def packR (op : BitVec 6) (rd ra rb rc : RegNum) : Word :=
  place 26 op ||| place 22 rd ||| place 18 ra ||| place 14 rb ||| place 10 rc

/-- Format I (30_encoding.md R82): OP, RD, six zero bits and IMM16. -/
def packI (op : BitVec 6) (rd : RegNum) (imm : BitVec 16) : Word :=
  place 26 op ||| place 22 rd ||| place 0 imm

/-- The word of a command: the formats of R81 to R83 with the opcodes of R84 and the operand places of R91. -/
def encode : Instr → Word
  | .nop => 0#32
  | .ldi rd imm => packI 0x01 rd imm
  | .mov rd ra => packR 0x02 rd ra 0 0
  | .mod rd ra rb => packR 0x03 rd ra rb 0
  | .gcd rd ra rb => packR 0x04 rd ra rb 0
  | .coprime rd ra rb => packR 0x05 rd ra rb 0
  | .eea rd ra rb rc => packR 0x06 rd ra rb rc
  | .modmul rd ra rb rc => packR 0x07 rd ra rb rc
  | .modpow rd ra rb rc => packR 0x08 rd ra rb rc
  | .modinv rd ra rb => packR 0x09 rd ra rb 0
  | .transform rd ra rb rc => packR 0x0A rd ra rb rc
  | .crtdec rd ra rb => packR 0x0B rd ra rb 0

/-- `EEA rs, rt, ra, rb`: the assembler writes `s` to RD and `t` to RC (R91). -/
def asmEea (rs rt ra rb : RegNum) : Instr := .eea rs ra rb rt

/-- Pseudo-instruction `CLR rd` (R92). -/
def asmClr (rd : RegNum) : Instr := .ldi rd 0

/-- Pseudo-instruction `SQR rd, ra, rc` (R92). -/
def asmSqr (rd ra rc : RegNum) : Instr := .modmul rd ra ra rc

/-- Pseudo-instruction `ENC rd, rm, re, rn` (R92). -/
def asmEnc (rd rm re rn : RegNum) : Instr := .transform rd rm re rn

/-- Pseudo-instruction `DEC rd, rc, rk, rn` (R92). -/
def asmDec (rd rc rk rn : RegNum) : Instr := .transform rd rc rk rn

/-- Pseudo-instruction `INV rd, ra, rb` (R92). -/
def asmInv (rd ra rb : RegNum) : Instr := .modinv rd ra rb

end Sys2Proof
end

