-- ==== Sys2Proof/Config.lean ====
section
/-! DEFINITION. What an instance of MEE-1 fixes (00_scope.md R6; 20_memory.md R61) and the free values of the
spec's draws (10_state.md R24). -/

namespace Sys2Proof

/-- The open parameters of an instance (00_scope.md R6, 20_memory.md R61; 93_implementation_defined.md I3, I4).
They stand in State, so that a statement over all states is a statement over all instances. -/
structure Params where
  /-- LIMBS = OPW / 32, the number of 32-bit limbs of an operand register. -/
  limbs : Nat
  /-- MEE_BASE, the byte address of the aperture in the host's address map. -/
  base : Nat
deriving DecidableEq, Repr

/-- OPW, the magnitude width of an operand register in bits (00_scope.md R6, R8). -/
def Params.opw (p : Params) : Nat := 32 * p.limbs

/-- The bounds of 00_scope.md R6 (OPW a multiple of 32, 64 ≤ OPW ≤ 16384) and of 20_memory.md R61
(MEE_BASE 64 KiB aligned). -/
abbrev Params.Valid (p : Params) : Prop := 2 ≤ p.limbs ∧ p.limbs ≤ 512 ∧ p.base % 65536 = 0

/-- DESIGN CHOICE, unsafe (notes/assumptions/3.md): the instance `State.reset` is made of. OPW = 64 is the width
of the spec's own vectors (95_test_vectors.md); MEE_BASE is the platform's and no step reads it. -/
def Params.ofVectors : Params := { limbs := 2, base := 0 }

/-- The host's byte address of lane `b` of the word at offset `off` (20_memory.md R62). -/
def Params.hostAddress (p : Params) (off : Offset) (b : Nat) : Nat := p.base + off.toNat + b

/-- FREE VALUE, safe (notes/assumptions/5.md): the `n`-th draw of 10_state.md R24, any 32-bit value. -/
opaque Config.freeWord : Nat → Word

end Sys2Proof
end

