-- ==== Sys2Proof/Machine/State.lean ====
section
/-! DEFINITION. The state of an MEE-1 block as plain data: every component of 10_state.md R20, the bookkeeping that
R24 and 60_exceptions.md R191 ask of a model, the answer at the bus port (R25), and the steps to come (20_memory.md
R70). -/

namespace Sys2Proof.Machine

/-- An operand register R[i] with its bookkeeping (10_state.md R21, R24). -/
structure Reg where
  /-- MAG[i], the magnitude; always below 2^OPW (`State.Inv`). -/
  mag : Nat
  /-- SIGN[i], true for negative. -/
  sign : Bool
  /-- VALID_LIMB[i][0..LIMBS-1], limb 0 first. -/
  validLimbs : List Bool
  /-- VALID_SIGN[i]. -/
  validSign : Bool
deriving DecidableEq, Repr

/-- The latched operands of the command in flight (10_state.md R40). A field that is no source of the command holds
0, and no meaning reads it; the empty latch of an illegal word is all 0. -/
structure Latch where
  a : Int := 0
  b : Int := 0
  c : Int := 0
  p : Int := 0
  q : Int := 0
  dp : Int := 0
  dq : Int := 0
  qInv : Int := 0
deriving DecidableEq, Repr

/-- INFLIGHT: the command word, its sequence number and its latched operands (10_state.md R37). -/
structure InFlight where
  word : Word
  seq : Word
  latch : Latch
deriving DecidableEq, Repr

/-- PHASE together with INFLIGHT, which exists exactly while Busy (10_state.md R37). -/
inductive Phase where
  | idle
  | busy (f : InFlight)
deriving DecidableEq, Repr

/-- The four access sizes of the port `bus_size`, in bytes (10_state.md R25). -/
inductive AccessSize where
  | b1
  | b2
  | b4
  | b8
deriving DecidableEq, Repr

/-- One host access: `bus_we`, `bus_addr`, `bus_size`, `bus_wdata` (10_state.md R25). -/
inductive Access where
  | read (off : Offset) (size : AccessSize)
  | write (off : Offset) (size : AccessSize) (data : Word)
deriving DecidableEq, Repr

/-- The block's answer to an access: `bus_rdata` and `bus_err` (10_state.md R25; 20_memory.md R64). -/
inductive Answer where
  /-- `bus_err` = 0 and `bus_rdata` = `w`. -/
  | readData (w : Word)
  /-- `bus_err` = 0. -/
  | writeDone
  /-- `bus_err` = 1 and `bus_rdata` = 0. -/
  | readError
  /-- `bus_err` = 1. -/
  | writeError
deriving DecidableEq, Repr

/-- One step of the total order of 20_memory.md R70. -/
inductive Turn where
  /-- A host access arrives at the port. -/
  | host (a : Access)
  /-- `rst_n` goes low and is released (70_reset_and_hazards.md R210, R212). -/
  | powerOn
  /-- The engine moves: its completion while Busy (10_state.md R41), nothing while Idle. -/
  | engine
deriving DecidableEq, Repr

/-- The model's fault record (60_exceptions.md R191). -/
structure FaultRecord where
  /-- A legal command was issued with an unwritten source (10_state.md R24). -/
  unwrittenOperand : Bool
  /-- An access of illegal width or alignment was made (20_memory.md R64). -/
  busError : Bool
deriving DecidableEq, Repr

/-- The state of a block (10_state.md R20). -/
structure State where
  /-- The instance's parameters (00_scope.md R6); no step changes them. -/
  params : Params
  /-- R0 to R15 (10_state.md R21). -/
  regs : Vector Reg 16
  /-- CTRL[0] (10_state.md R28). -/
  irqEn : Bool
  /-- STATUS[1] (10_state.md R29). -/
  done : Bool
  /-- STATUS[2] (10_state.md R29). -/
  err : Bool
  /-- STATUS[3] (10_state.md R44). -/
  ovr : Bool
  /-- STATUS[4] (10_state.md R43). -/
  werr : Bool
  /-- STATUS[8] (10_state.md R33). -/
  z : Bool
  /-- STATUS[9] (10_state.md R33). -/
  one : Bool
  /-- STATUS[10] (10_state.md R33). -/
  neg : Bool
  /-- ERRINFO (10_state.md R34). -/
  errInfo : Word
  /-- CMD_LAST, the readback of CMD (10_state.md R32). -/
  cmdLast : Word
  /-- CMDSEQ (10_state.md R31). -/
  cmdSeq : Word
  /-- PHASE and INFLIGHT (10_state.md R37). -/
  phase : Phase
  /-- The fault record (60_exceptions.md R191). -/
  faults : FaultRecord
  /-- The model's own: how many draws of 10_state.md R24 were made (notes/assumptions/5.md). -/
  draws : Nat
  /-- The answer to the latest access, none before the first (10_state.md R25; notes/assumptions/6.md). -/
  answer : Option Answer
  /-- The model's own: the steps to come, in their total order (20_memory.md R70; notes/assumptions/4.md). -/
  schedule : List Turn
deriving DecidableEq, Repr

/-- Why a step stops. -/
inductive Fault where
  /-- Raised by `exec` (through every meaning) on a state with no command in flight: the spec completes commands only
  while Busy (10_state.md R41). `step` calls `exec` only while Busy, so no run reaches it. Safe. -/
  | nothingInFlight
deriving DecidableEq, Repr

/-- Why an instruction has no meaning. -/
inductive Refusal where
  /-- Raised by an arm of `exec` whose instruction is not modelled; no arm does, every row of the table has its
  meaning. Safe. -/
  | notModelled (mnemonic : String)
deriving DecidableEq, Repr

/-- An operand register after power-on reset: unwritten (10_state.md R24). DESIGN CHOICE, unsafe
(notes/assumptions/1.md): its magnitude and sign, which the spec leaves unspecified, are 0. -/
def Reg.unwritten (limbs : Nat) : Reg :=
  { mag := 0, sign := false, validLimbs := List.replicate limbs false, validSign := false }

/-- The table of 70_reset_and_hazards.md R210, for an instance with parameters `p`. -/
def State.powerOn (p : Params) : State :=
  { params := p
    regs := Vector.replicate 16 (Reg.unwritten p.limbs)
    irqEn := false
    done := false
    err := false
    ovr := false
    werr := false
    z := false
    one := false
    neg := false
    errInfo := 0
    cmdLast := 0
    cmdSeq := 0
    phase := .idle
    faults := { unwrittenOperand := false, busError := false }
    draws := 0
    answer := none
    schedule := [] }

/-- The block right after power-on reset (70_reset_and_hazards.md R210), of the instance of notes/assumptions/3.md. -/
def State.reset : State := State.powerOn Params.ofVectors

end Sys2Proof.Machine
end

