-- ==== Sys2Proof/Machine/Flags.lean ====
section
/-! DEFINITION. The result flags (10_state.md R33), the interrupt level (60_exceptions.md R188) and the words that
software reads them in: STATUS, CTRL, CFG, ERRINFO (10_state.md R27 to R29, R34). -/

namespace Sys2Proof.Machine

/-- R33: `Z`, `ONE` and `NEG` from the primary result; without one the flags are unchanged. -/
def setFlags (primary : Option Int) (s : State) : State :=
  match primary with
  | none => s
  | some v => { s with z := decide (v = 0), one := decide (v = 1), neg := decide (v < 0) }

/-- The output `irq` (60_exceptions.md R188). -/
def irqLevel (s : State) : Bool := s.irqEn && (s.done || s.err)

/-- STATUS.BUSY: 1 iff PHASE = Busy (10_state.md R29). -/
def isBusy (s : State) : Bool :=
  match s.phase with
  | .idle => false
  | .busy _ => true

/-- The number with the given bits, bit 0 first. -/
def bitsValue : List Bool → Nat
  | [] => 0
  | b :: bs => b.toNat + 2 * bitsValue bs

/-- The word a read of STATUS returns (10_state.md R29): bits 0 to 10, reserved bits 0. -/
def statusWord (s : State) : Word :=
  BitVec.ofNat 32 (bitsValue
    [isBusy s, s.done, s.err, s.ovr, s.werr, irqLevel s, false, false, s.z, s.one, s.neg])

/-- The word a read of CTRL returns (10_state.md R28): IRQ_EN in bit 0, every other bit 0. -/
def ctrlWord (s : State) : Word := BitVec.ofNat 32 (bitsValue [s.irqEn])

/-- ID (10_state.md R26). -/
def idWord : Word := 0x4D454501

/-- CFG: LIMBS in [15:0], NREG = 16 in [20:16] (10_state.md R27). -/
def cfgWord (p : Params) : Word := place 16 16#5 ||| place 0 (BitVec.ofNat 16 p.limbs)

/-- The layout of ERRINFO, `{ seq[15:0], 00, opcode, code }` (10_state.md R34; 60_exceptions.md R183). -/
def errInfoWord (code : BitVec 8) (opcode : BitVec 6) (seq : Word) : Word :=
  place 16 (seq.extractLsb' 0 16) ||| place 8 opcode ||| place 0 code

end Sys2Proof.Machine
end

