-- ==== Sys2Proof/Machine/Operands.lean ====
section
/-! DEFINITION. Operand registers: their value, their limbs, their bookkeeping (10_state.md R21 to R24, R35;
20_memory.md R63), the operand roles of the commands (30_encoding.md R87) and the latch (10_state.md R40). -/

namespace Sys2Proof.Machine

/-- The register R[i] with its bookkeeping. -/
def getReg (i : RegNum) (s : State) : Reg := s.regs[i.toNat]'i.isLt

/-- The state with register R[i] replaced. -/
def setReg (i : RegNum) (r : Reg) (s : State) : State := { s with regs := s.regs.set i.toNat r i.isLt }

/-- The integer a register holds: `SIGN = 1 ? -MAG : MAG` (10_state.md R21). -/
def regValue (r : Reg) : Int := if r.sign then -(r.mag : Int) else (r.mag : Int)

/-- `R[i]` as a value (00_scope.md R11). -/
def readReg (i : RegNum) (s : State) : Int := regValue (getReg i s)

/-- A register after a command wrote `v` to it: sign-magnitude, never a negative zero (10_state.md R22), every part
valid (R24). -/
def regOf (limbs : Nat) (v : Int) : Reg :=
  { mag := v.natAbs, sign := decide (v < 0), validLimbs := List.replicate limbs true, validSign := true }

/-- `R[i] <- v` by a command (10_state.md R22, R24). -/
def writeReg (i : RegNum) (v : Int) (s : State) : State := setReg i (regOf s.params.limbs v) s

/-- Register i is written: all its limbs and its sign are valid (10_state.md R24). -/
def regWritten (limbs : Nat) (r : Reg) : Bool :=
  r.validSign && (List.range limbs).all fun j => r.validLimbs.getD j false

/-- Limb j of a magnitude: bits [32j+31:32j] (20_memory.md R63). -/
def limbOf (mag j : Nat) : Word := BitVec.ofNat 32 (mag / 2 ^ (32 * j))

/-- A magnitude with limb j replaced and every other limb kept (20_memory.md R63, 70_reset_and_hazards.md R218). -/
def withLimb (mag j : Nat) (w : Word) : Nat :=
  mag % 2 ^ (32 * j) + 2 ^ (32 * j) * (w.toNat + 2 ^ 32 * (mag / 2 ^ (32 * (j + 1))))

/-- A host write of limb j of R[i] while Idle (20_memory.md R63; 10_state.md R24). -/
def writeLimb (i : RegNum) (j : Nat) (w : Word) (s : State) : State :=
  let r := getReg i s
  setReg i { r with mag := withLimb r.mag j w, validLimbs := r.validLimbs.set j true } s

/-- A host write of REG_SIGN while Idle (10_state.md R35): SIGN[i] <- w[i], every sign valid (R24). -/
def writeSigns (w : Word) (s : State) : State :=
  { s with regs := Vector.ofFn fun i : Fin 16 => { s.regs[i] with sign := w.getLsbD i.val, validSign := true } }

/-- Bit i of a REG_SIGN read (10_state.md R35): SIGN[i], or a bit of the draw where SIGN[i] is unwritten (R24). -/
def signBit (draw : Word) (i : Nat) (r : Reg) : Bool := if r.validSign then r.sign else draw.getLsbD i

/-- Every sign is written, so that a REG_SIGN read draws nothing (10_state.md R24). -/
def allSignsValid (s : State) : Bool := s.regs.toList.all fun r => r.validSign

/-- The source registers of a command, those marked S or U in 30_encoding.md R87. -/
def sources : Instr → List RegNum
  | .nop => []
  | .ldi _ _ => []
  | .mov _ ra => [ra]
  | .mod _ ra rb => [ra, rb]
  | .gcd _ ra rb => [ra, rb]
  | .coprime _ ra rb => [ra, rb]
  | .eea _ ra rb _ => [ra, rb]
  | .modmul _ ra rb rc => [ra, rb, rc]
  | .modpow _ ra rb rc => [ra, rb, rc]
  | .modinv _ ra rb => [ra, rb]
  | .transform _ ra rb rc => [ra, rb, rc]
  | .crtdec _ ra rb => [ra, rb, rb + 1, rb + 2, rb + 3, rb + 4]

/-- The values a legal command latches, by the names of 10_state.md R40. -/
def latchSources (i : Instr) (s : State) : Latch :=
  match i with
  | .nop => {}
  | .ldi _ _ => {}
  | .mov _ ra => { a := readReg ra s }
  | .mod _ ra rb => { a := readReg ra s, b := readReg rb s }
  | .gcd _ ra rb => { a := readReg ra s, b := readReg rb s }
  | .coprime _ ra rb => { a := readReg ra s, b := readReg rb s }
  | .eea _ ra rb _ => { a := readReg ra s, b := readReg rb s }
  | .modmul _ ra rb rc => { a := readReg ra s, b := readReg rb s, c := readReg rc s }
  | .modpow _ ra rb rc => { a := readReg ra s, b := readReg rb s, c := readReg rc s }
  | .modinv _ ra rb => { a := readReg ra s, b := readReg rb s }
  | .transform _ ra rb rc => { a := readReg ra s, b := readReg rb s, c := readReg rc s }
  | .crtdec _ ra rb =>
    { a := readReg ra s, p := readReg rb s, q := readReg (rb + 1) s, dp := readReg (rb + 2) s,
      dq := readReg (rb + 3) s, qInv := readReg (rb + 4) s }

/-- `Latch(w)` (10_state.md R40): the sources of a legal word, nothing for an illegal one. -/
def latchOf (w : Word) (s : State) : Latch :=
  match decode w with
  | .ok i => latchSources i s
  | .error _ => {}

/-- A legal word one of whose source registers is not written (10_state.md R24). -/
def readsUnwritten (w : Word) (s : State) : Bool :=
  match decode w with
  | .ok i => (sources i).any fun r => !regWritten s.params.limbs (getReg r s)
  | .error _ => false

end Sys2Proof.Machine
end

