-- ==== Sys2Proof/Machine/Ops.lean ====
section
/-! DEFINITION. The shared operations of the command cycle: issue (10_state.md R39), commit (R42), recording an error
(60_exceptions.md R183: the one way an error is taken) and leaving it (R185), completion (10_state.md R41), abort
(60_exceptions.md R187), soft and power-on reset (70_reset_and_hazards.md R211, R212). -/

namespace Sys2Proof.Machine

/-- The error codes of 60_exceptions.md R181. -/
inductive ErrorCode where
  | illegal
  | negOperand
  | modZero
  | notCoprime
  | range
  | genCoprime
  | smallPrime
  | postcond
  | overflow
  | aborted
deriving DecidableEq, Repr

/-- The column "code" of 60_exceptions.md R181. -/
def codeOf : ErrorCode → BitVec 8
  | .illegal => 0x01
  | .negOperand => 0x02
  | .modZero => 0x03
  | .notCoprime => 0x04
  | .range => 0x05
  | .genCoprime => 0x06
  | .smallPrime => 0x07
  | .postcond => 0x08
  | .overflow => 0x09
  | .aborted => 0x0A

/-- What `Exec` returns (10_state.md R41). -/
inductive Result where
  /-- `Ok(writes, primary)`: at most two register writes and the primary result, if any. -/
  | ok (writes : List (RegNum × Int)) (primary : Option Int)
  /-- `Err(code)`. -/
  | err (code : ErrorCode)
deriving DecidableEq, Repr

/-- `commit({R[rd] <- v}, primary = v)`, the success of a command with one destination. -/
def okOne (rd : RegNum) (v : Int) : Result := .ok [(rd, v)] (some v)

/-- The sign check of the unsigned sources, before a command's own checks (60_exceptions.md R182 item 2; 00_scope.md
R13). All its failures give one code, so their order cannot be seen. -/
def checkUnsigned (sources : List Int) (own : Result) : Result :=
  if sources.any (fun v => decide (v < 0)) then .err .negOperand else own

/-- The magnitude bound of a register write (10_state.md R22; 00_scope.md R7). -/
def fits (p : Params) (v : Int) : Bool := decide (v.natAbs < 2 ^ p.opw)

/-- The register writes of a commit, in order. -/
def applyWrites : List (RegNum × Int) → State → State
  | [], s => s
  | (i, v) :: rest, s => applyWrites rest (writeReg i v s)

/-- `commit(writes, primary)` in one step (10_state.md R42). -/
def commit (writes : List (RegNum × Int)) (primary : Option Int) (s : State) : State :=
  { setFlags primary (applyWrites writes s) with done := true }

/-- `RecordError(code, opcode, seq)` (60_exceptions.md R183): ERRINFO keeps the first error while ERR = 1. -/
def recordError (code : ErrorCode) (opcode : BitVec 6) (seq : Word) (s : State) : State :=
  { s with
    errInfo := if s.err then s.errInfo else errInfoWord (codeOf code) opcode seq
    err := true }

/-- `PHASE <- Idle ; INFLIGHT <- none` (10_state.md R41). -/
def endCommand (s : State) : State := { s with phase := .idle }

/-- The end of the command `f` with outcome `out` (10_state.md R41). -/
def finish (f : InFlight) (out : Result) (s : State) : State :=
  match out with
  | .ok writes primary => endCommand (commit writes primary s)
  | .err code => endCommand (recordError code (opField f.word) f.seq s)

/-- The completion of the command in flight by its rule (10_state.md R41): the rule reads the latch alone. -/
def complete (rule : Latch → Result) (s : State) : Host.Outcome State Fault Refusal :=
  match s.phase with
  | .idle => .fault .nothingInFlight
  | .busy f => .next (finish f (rule f.latch) s)

/-- The completion of an illegal word: error ILLEGAL (30_encoding.md R86, R89). -/
def completeIllegal (f : InFlight) (s : State) : State := finish f (.err .illegal) s

/-- Issue of word `w` (10_state.md R39, R40); an unwritten source of a legal word is recorded (R24). -/
def acceptCommand (w : Word) (s : State) : State :=
  { s with
    cmdSeq := s.cmdSeq + 1
    cmdLast := w
    done := false
    phase := .busy { word := w, seq := s.cmdSeq + 1, latch := latchOf w s }
    faults := { s.faults with unwrittenOperand := s.faults.unwrittenOperand || readsUnwritten w s } }

/-- The abort of 60_exceptions.md R187: nothing while Idle. -/
def abortCommand (s : State) : State :=
  match s.phase with
  | .idle => s
  | .busy f => endCommand (recordError .aborted (opField f.word) f.seq s)

/-- The soft reset of 70_reset_and_hazards.md R211: the table of R210, except the operand registers, their VALID bits
and the fault record. The model's own fields are kept as well. -/
def softReset (s : State) : State :=
  { State.powerOn s.params with
    regs := s.regs
    faults := s.faults
    draws := s.draws
    answer := s.answer
    schedule := s.schedule }

/-- A power-on reset of a running block (70_reset_and_hazards.md R210, R212): every register unwritten again (10_state.md
R24). DESIGN CHOICE, safe (notes/assumptions/9.md): the model's fault record is kept. -/
def powerOnReset (s : State) : State :=
  { State.powerOn s.params with
    faults := s.faults
    draws := s.draws
    schedule := s.schedule }

/-- A table row's word put in flight as an issue would (notes/assumptions/11.md), the engine to move next: with no
step to come the engine moves anyway, otherwise a turn of the engine is put before the others. -/
def placeCommand (nbits w : Nat) (s : State) : State :=
  { acceptCommand (BitVec.ofNat 32 (w % 2 ^ nbits)) s with
    schedule := if s.schedule.isEmpty then [] else .engine :: s.schedule }

end Sys2Proof.Machine
end

