-- ==== Sys2Proof/Machine/Bus.lean ====
section
/-! DEFINITION. The bus port: the register map (10_state.md R26; 20_memory.md R63, R65), reads and writes of each
register (10_state.md R27 to R35, R43 to R47), illegal accesses (20_memory.md R64), and whose turn it is (R70). -/

namespace Sys2Proof.Machine

/-- What an aligned offset of the aperture names (10_state.md R26). -/
inductive Target where
  | id
  | cfg
  | ctrl
  | status
  | errInfo
  | cmd
  | cmdSeq
  | regSign
  /-- Limb j of R[i] (20_memory.md R63). -/
  | limb (i : RegNum) (j : Nat)
  /-- RAZ/WI (20_memory.md R65). -/
  | reserved
deriving DecidableEq, Repr

/-- `off(i, j) = 0x1000 + 4·(i·LIMBS + j)` (20_memory.md R63). -/
def limbOffset (p : Params) (i : RegNum) (j : Nat) : Nat := 0x1000 + 4 * (i.toNat * p.limbs + j)

/-- The register map of 10_state.md R26 at an aligned offset. -/
def targetAt (p : Params) (off : Nat) : Target :=
  if off = 0x0000 then .id
  else if off = 0x0004 then .cfg
  else if off = 0x0008 then .ctrl
  else if off = 0x000C then .status
  else if off = 0x0010 then .errInfo
  else if off = 0x0014 then .cmd
  else if off = 0x0018 then .cmdSeq
  else if off = 0x001C then .regSign
  else if 0x1000 ≤ off ∧ off < 0x1000 + 64 * p.limbs then
    .limb (BitVec.ofNat 4 ((off - 0x1000) / 4 / p.limbs)) ((off - 0x1000) / 4 % p.limbs)
  else .reserved

/-- The accesses the block accepts (20_memory.md R64). -/
def accessLegal (off : Offset) (size : AccessSize) : Bool := size == .b4 && off.toNat % 4 == 0

/-- The next draw of 10_state.md R24, and the state in which it is used up. -/
def drawWord (s : State) : Word × State := (Config.freeWord s.draws, { s with draws := s.draws + 1 })

/-- A read of limb j of R[i] (20_memory.md R63): the limb, or a draw if it is unwritten (10_state.md R24). -/
def readLimb (i : RegNum) (j : Nat) (s : State) : Word × State :=
  if (getReg i s).validLimbs.getD j false then (limbOf (getReg i s).mag j, s) else drawWord s

/-- The word of a REG_SIGN read, `draw` giving the unwritten signs (10_state.md R24, R35). -/
def signsWord (draw : Word) (s : State) : Word :=
  BitVec.ofNat 32 (bitsValue (s.regs.toList.mapIdx (signBit draw)))

/-- A read of REG_SIGN (10_state.md R35); it draws only if a sign is unwritten (R24). -/
def readSigns (s : State) : Word × State :=
  if allSignsValid s then (signsWord 0 s, s)
  else
    let (draw, t) := drawWord s
    (signsWord draw s, t)

/-- A legal read (10_state.md R26 to R35, R45): no side effect but the model's count of draws (20_memory.md R68). -/
def readTarget (target : Target) (s : State) : Word × State :=
  match target with
  | .id => (idWord, s)
  | .cfg => (cfgWord s.params, s)
  | .ctrl => (ctrlWord s, s)
  | .status => (statusWord s, s)
  | .errInfo => (s.errInfo, s)
  | .cmd => (s.cmdLast, s)
  | .cmdSeq => (s.cmdSeq, s)
  | .regSign => readSigns s
  | .limb i j => readLimb i j s
  | .reserved => (0, s)

/-- A write to CTRL, its bits in the order of 10_state.md R28. -/
def writeCtrl (w : Word) (s : State) : State :=
  if w.getLsbD 1 then softReset s
  else { (if w.getLsbD 2 then abortCommand s else s) with irqEn := w.getLsbD 0 }

/-- A write to STATUS: W1C of DONE, ERR, OVR and WERR, every other bit ignored (10_state.md R46). -/
def writeStatus (w : Word) (s : State) : State :=
  { s with
    done := s.done && !w.getLsbD 1
    err := s.err && !w.getLsbD 2
    ovr := s.ovr && !w.getLsbD 3
    werr := s.werr && !w.getLsbD 4 }

/-- A write to CMD: issue while Idle (10_state.md R39), dropped with OVR while Busy (R44). -/
def writeCmd (w : Word) (s : State) : State :=
  if isBusy s then { s with ovr := true } else acceptCommand w s

/-- A write that 10_state.md R43 drops with WERR while Busy, and that does `put` while Idle. -/
def unlessBusy (put : State → State) (s : State) : State :=
  if isBusy s then { s with werr := true } else put s

/-- A legal write (10_state.md R26; 20_memory.md R68): the read-only registers and reserved offsets ignore it
(10_state.md R47; 20_memory.md R65). -/
def writeTarget (target : Target) (w : Word) (s : State) : State :=
  match target with
  | .id => s
  | .cfg => s
  | .ctrl => writeCtrl w s
  | .status => writeStatus w s
  | .errInfo => s
  | .cmd => writeCmd w s
  | .cmdSeq => s
  | .regSign => unlessBusy (writeSigns w) s
  | .limb i j => unlessBusy (writeLimb i j w) s
  | .reserved => s

/-- The model fault BusError (20_memory.md R64; 60_exceptions.md R191). -/
def recordBusError (s : State) : State := { s with faults := { s.faults with busError := true } }

/-- The port `bus_err` of an answer (10_state.md R25; 20_memory.md R64). -/
def busErrOf : Answer → Bool
  | .readData _ => false
  | .writeDone => false
  | .readError => true
  | .writeError => true

/-- The port `bus_rdata` of an answer to a read: 0 with an error (20_memory.md R64). A write reads nothing. -/
def busRdataOf : Answer → Option Word
  | .readData w => some w
  | .writeDone => none
  | .readError => some 0
  | .writeError => none

/-- The block's answer on the port (10_state.md R25). -/
def answerWith (a : Answer) (s : State) : State := { s with answer := some a }

/-- One host access as one atomic step (20_memory.md R64, R67, R70). -/
def hostAccess (a : Access) (s : State) : State :=
  match a with
  | .read off size =>
    if accessLegal off size then
      let (w, t) := readTarget (targetAt s.params off.toNat) s
      answerWith (.readData w) t
    else answerWith .readError (recordBusError s)
  | .write off size w =>
    if accessLegal off size then answerWith .writeDone (writeTarget (targetAt s.params off.toNat) w s)
    else answerWith .writeError (recordBusError s)

/-- The next step of the total order and the state without it (20_memory.md R70). With none left the engine moves, so
that a command in flight completes (10_state.md R41, weak fairness; notes/assumptions/4.md). -/
def takeTurn (s : State) : Turn × State :=
  match s.schedule with
  | [] => (.engine, s)
  | turn :: rest => (turn, { s with schedule := rest })

end Sys2Proof.Machine
end

