-- ==== Sys2Proof/Machine/Arith.lean ====
section
/-! DEFINITION. The integer functions of the command rules, exact on unbounded integers (00_scope.md R7, R10):
`mod`, `gcd` (40_number_theory.md R101), `eea` (R111) and `modpow` (41_modular_arithmetic.md R131). Each loop of the
spec is a structural recursion on a bound of its rounds that is never used up (Sys2Proof/Laws/Arith.lean). -/

namespace Sys2Proof.Machine

/-- `mod(x, n) = x - n·fdiv(x, n)` for `n > 0` (00_scope.md R10). -/
def modulo (x n : Int) : Int := x - n * Int.fdiv x n

/-- The loop of 40_number_theory.md R101, at most `fuel` rounds. -/
def euclidLoop : Nat → Nat → Nat → Nat
  | 0, a, _ => a
  | fuel + 1, a, b => if b = 0 then a else euclidLoop fuel b (a % b)

/-- `gcd(a, b)` of 40_number_theory.md R101; `b` strictly decreases, so `b` rounds are enough. -/
def euclid (a b : Nat) : Nat := euclidLoop b a b

/-- The recursion of 40_number_theory.md R111, at most `fuel` deep. -/
def bezoutLoop : Nat → Nat → Nat → Int × Int
  | 0, _, _ => (1, 0)
  | fuel + 1, a, b =>
    if b = 0 then (1, 0)
    else
      let (s', t') := bezoutLoop fuel b (a % b)
      (t', s' - (a / b : Nat) * t')

/-- `eea(a, b)` of 40_number_theory.md R111: the pair this recursion returns, and no other Bézout pair. -/
def bezout (a b : Nat) : Int × Int := bezoutLoop b a b

/-- The loop of 41_modular_arithmetic.md R131 from `b`, `acc` and `e`, at most `fuel` rounds. -/
def powLoop : Nat → Nat → Nat → Nat → Nat → Nat
  | 0, _, acc, _, _ => acc
  | fuel + 1, b, acc, e, m =>
    if e = 0 then acc
    else powLoop fuel (b * b % m) (if e % 2 = 1 then acc * b % m else acc) (e / 2) m

/-- `modpow(base, exponent, modulus)` of 41_modular_arithmetic.md R131; the exponent at least halves each round. -/
def modpow (base exponent modulus : Nat) : Nat :=
  if modulus = 1 then 0 else powLoop exponent (base % modulus) 1 exponent modulus

/-- The generalized coprimality precondition `gcd(g, n/g) = 1` with `g = gcd(x, n)` (43_cipher.md R152). -/
def genCoprime (x n : Nat) : Bool := euclid (euclid x n) (n / euclid x n) == 1

end Sys2Proof.Machine
end

