-- ==== Sys2Proof/Machine/Cipher.lean ====
section
/-! DEFINITION. The cipher commands: TRANSFORM and CRTDEC (43_cipher.md R151, R156). -/

namespace Sys2Proof.Machine

/-- The two preconditions TRANSFORM and CRTDEC share, in DOC0's order (60_exceptions.md R182): `x < n`, then the
generalized coprimality of 43_cipher.md R152. -/
def checkMessage (x n : Nat) (own : Result) : Result :=
  if n ≤ x then .err .range else if !genCoprime x n then .err .genCoprime else own

/-- The rule of TRANSFORM (R151). -/
def transformRule (rd : RegNum) (L : Latch) : Result :=
  checkUnsigned [L.a, L.b, L.c] <|
    checkMessage L.a.toNat L.c.toNat <| okOne rd (modpow L.a.toNat L.b.toNat L.c.toNat)

/-- TRANSFORM (R151). -/
def execTransform (rd _ra _rb _rc : RegNum) (s : State) : Host.Outcome State Fault Refusal :=
  complete (transformRule rd) s

/-- The value of the combiner (R156, R160): `m2 + h·q` with `h = mod(qInv·(m1 - m2), p)`. -/
def crtValue (c p q dp dq : Nat) (qInv : Int) : Int :=
  let m1 := modpow c dp p
  let m2 := modpow c dq q
  m2 + modulo (qInv * (m1 - m2)) p * q

/-- The rule of CRTDEC (R156). RB > 11 is ILLEGAL, as the rule lists it; no word decodes to such a command
(30_encoding.md R86). -/
def crtdecRule (params : Params) (rd rb : RegNum) (L : Latch) : Result :=
  if 11 < rb.toNat then .err .illegal
  else
    checkUnsigned [L.a, L.p, L.q, L.dp, L.dq, L.qInv] <|
      if L.p ≤ 2 ∨ L.q ≤ 2 then .err .smallPrime
      else
        checkMessage L.a.toNat (L.p * L.q).toNat <|
          let m := crtValue L.a.toNat L.p.toNat L.q.toNat L.dp.toNat L.dq.toNat L.qInv
          if fits params m then okOne rd m else .err .overflow

/-- CRTDEC (R156). -/
def execCrtdec (rd _ra rb : RegNum) (s : State) : Host.Outcome State Fault Refusal :=
  complete (crtdecRule s.params rd rb) s

end Sys2Proof.Machine
end

