-- ==== Sys2Proof/Machine/Modular.lean ====
section
/-! DEFINITION. Modular arithmetic: MOD, MODMUL, MODPOW (41_modular_arithmetic.md R120, R124, R132). -/

namespace Sys2Proof.Machine

/-- The guard of the commands with a modulus: error MOD_ZERO for 0 (60_exceptions.md R181). -/
def checkModulus (n : Int) (own : Result) : Result := if n = 0 then .err .modZero else own

/-- The rule of MOD (R120): the dividend `L.a` is signed, the modulus `L.b` unsigned. -/
def modRule (rd : RegNum) (L : Latch) : Result :=
  checkUnsigned [L.b] <| checkModulus L.b <| okOne rd (modulo L.a L.b)

/-- MOD (R120). -/
def execMod (rd _ra _rb : RegNum) (s : State) : Host.Outcome State Fault Refusal := complete (modRule rd) s

/-- The rule of MODMUL (R124): the exact classical residue of the product (R123). -/
def modmulRule (rd : RegNum) (L : Latch) : Result :=
  checkUnsigned [L.a, L.b, L.c] <| checkModulus L.c <| okOne rd (modulo (L.a * L.b) L.c)

/-- MODMUL (R124). -/
def execModmul (rd _ra _rb _rc : RegNum) (s : State) : Host.Outcome State Fault Refusal :=
  complete (modmulRule rd) s

/-- The rule of MODPOW (R132), without precondition checks. -/
def modpowRule (rd : RegNum) (L : Latch) : Result :=
  checkUnsigned [L.a, L.b, L.c] <| checkModulus L.c <| okOne rd (modpow L.a.toNat L.b.toNat L.c.toNat)

/-- MODPOW (R132). -/
def execModpow (rd _ra _rb _rc : RegNum) (s : State) : Host.Outcome State Fault Refusal :=
  complete (modpowRule rd) s

end Sys2Proof.Machine
end

