-- ==== Sys2Proof/Machine/Inverse.lean ====
section
/-! DEFINITION. The modular inverse solver: MODINV (42_modular_inverse.md R141). -/

namespace Sys2Proof.Machine

/-- The rule of MODINV (R141), its checks in its order, on the operands `e` and `t` after the sign and zero checks. -/
def inverseRule (rd : RegNum) (e t : Int) : Result :=
  let g := euclid e.toNat t.toNat
  let a := (bezout e.toNat t.toNat).1
  let d := modulo a t
  if g ≠ 1 then .err .notCoprime
  else if modulo (a * e) t ≠ g then .err .postcond
  else if modulo (d * e) t ≠ 1 then .err .postcond
  else okOne rd d

/-- MODINV's whole rule on the latch (R141). -/
def modinvRule (rd : RegNum) (L : Latch) : Result :=
  checkUnsigned [L.a, L.b] <| checkModulus L.b <| inverseRule rd L.a L.b

/-- MODINV (R141). -/
def execModinv (rd _ra _rb : RegNum) (s : State) : Host.Outcome State Fault Refusal := complete (modinvRule rd) s

end Sys2Proof.Machine
end

