-- ==== Sys2Proof/Machine/Move.lean ====
section
/-! DEFINITION. Register movement and control: NOP, LDI, MOV (44_move_and_control.md R170 to R172). -/

namespace Sys2Proof.Machine

/-- NOP (R170): `commit({}, primary = none)`. -/
def execNop (s : State) : Host.Outcome State Fault Refusal := complete (fun _ => .ok [] none) s

/-- LDI (R171): RD <- zext_16(imm). -/
def execLdi (rd : RegNum) (imm : BitVec 16) (s : State) : Host.Outcome State Fault Refusal :=
  complete (fun _ => okOne rd imm.toNat) s

/-- MOV (R172): RD <- L.a, signed. -/
def execMov (rd _ra : RegNum) (s : State) : Host.Outcome State Fault Refusal :=
  complete (fun L => okOne rd L.a) s

end Sys2Proof.Machine
end

