-- ==== Sys2Proof/Machine/NumberTheory.lean ====
section
/-! DEFINITION. Number theory: GCD, COPRIME, EEA (40_number_theory.md R102, R104, R112). -/

namespace Sys2Proof.Machine

/-- The rule of GCD (R102). -/
def gcdRule (rd : RegNum) (L : Latch) : Result :=
  checkUnsigned [L.a, L.b] <| okOne rd (euclid L.a.toNat L.b.toNat)

/-- GCD (R102). -/
def execGcd (rd _ra _rb : RegNum) (s : State) : Host.Outcome State Fault Refusal := complete (gcdRule rd) s

/-- The rule of COPRIME (R104): 1 for true, 0 for false. -/
def coprimeRule (rd : RegNum) (L : Latch) : Result :=
  checkUnsigned [L.a, L.b] <| okOne rd (if euclid L.a.toNat L.b.toNat = 1 then 1 else 0)

/-- COPRIME (R104). -/
def execCoprime (rd _ra _rb : RegNum) (s : State) : Host.Outcome State Fault Refusal :=
  complete (coprimeRule rd) s

/-- The rule of EEA (R112): `s` to RD and `t` to RC together, primary result `s`. RD = RC is ILLEGAL, as the rule lists
it; no word decodes to such a command (30_encoding.md R86). -/
def eeaRule (p : Params) (rd rc : RegNum) (L : Latch) : Result :=
  if rd = rc then .err .illegal
  else
    checkUnsigned [L.a, L.b] <|
      let (s, t) := bezout L.a.toNat L.b.toNat
      if fits p s && fits p t then .ok [(rd, s), (rc, t)] (some s) else .err .overflow

/-- EEA (R112). -/
def execEea (rd _ra _rb rc : RegNum) (s : State) : Host.Outcome State Fault Refusal :=
  complete (eeaRule s.params rd rc) s

end Sys2Proof.Machine
end

