-- ==== Sys2Proof/Machine/Dispatch.lean ====
section
/-! DEFINITION. The completion of a legal command, one arm per constructor (10_state.md R41; 30_encoding.md R84). -/

namespace Sys2Proof.Machine

def exec (i : Instr) (s : State) : Host.Outcome State Fault Refusal :=
  match i with
  | .nop => Sys2Proof.Machine.execNop s
  | .ldi rd imm => Sys2Proof.Machine.execLdi rd imm s
  | .mov rd ra => Sys2Proof.Machine.execMov rd ra s
  | .mod rd ra rb => Sys2Proof.Machine.execMod rd ra rb s
  | .gcd rd ra rb => Sys2Proof.Machine.execGcd rd ra rb s
  | .coprime rd ra rb => Sys2Proof.Machine.execCoprime rd ra rb s
  | .eea rd ra rb rc => Sys2Proof.Machine.execEea rd ra rb rc s
  | .modmul rd ra rb rc => Sys2Proof.Machine.execModmul rd ra rb rc s
  | .modpow rd ra rb rc => Sys2Proof.Machine.execModpow rd ra rb rc s
  | .modinv rd ra rb => Sys2Proof.Machine.execModinv rd ra rb s
  | .transform rd ra rb rc => Sys2Proof.Machine.execTransform rd ra rb rc s
  | .crtdec rd ra rb => Sys2Proof.Machine.execCrtdec rd ra rb s

end Sys2Proof.Machine
end

