-- ==== Sys2Proof/Machine/Engine.lean ====
section
/-! DEFINITION. A turn of the engine (10_state.md R41): decode the word in flight and complete it. -/

namespace Sys2Proof.Machine

/-- While Busy, the completion of the command in flight (10_state.md R41), with error ILLEGAL for an illegal word
(30_encoding.md R86); while Idle, nothing (60_exceptions.md R197). -/
def engineTurn (s : State) : Host.Outcome State Fault Refusal :=
  match s.phase with
  | .idle => .next s
  | .busy f =>
    match decode f.word with
    | .ok i => exec i s
    | .error _ => .next (completeIllegal f s)

end Sys2Proof.Machine
end

