-- ==== Sys2Proof/Machine/Step.lean ====
section
/-! DEFINITION. One step of the block: the next of the totally ordered steps of 20_memory.md R70. -/

namespace Sys2Proof.Machine

/-- One step: a host access, a power-on reset or a turn of the engine (20_memory.md R70; 60_exceptions.md R190). -/
def step (s : State) : Host.Outcome State Fault Refusal :=
  match takeTurn s with
  | (.host a, t) => .next (hostAccess a t)
  | (.powerOn, t) => .next (powerOnReset t)
  | (.engine, t) => engineTurn t

/-- `s` with a table row's word in flight and the engine to move next (notes/assumptions/11.md). -/
def State.withFetchWord (s : State) (nbits w : Nat) : State := placeCommand nbits w s

end Sys2Proof.Machine
end

