-- ==== Sys2Proof/Safety.lean ====
section
/-! DEFINITION. The terms that claims about the block use: its invariant, a run's end and its premise (70_reset_and_hazards.md
R224), a command in flight, and what a successful and a failed completion leave (10_state.md R33, R42; 60_exceptions.md
R183, R184). -/

namespace Sys2Proof.Machine

/-- No model fault is recorded, a premise of every claim about a run (70_reset_and_hazards.md R224). -/
abbrev NoModelFault (s : State) : Prop := s.faults.unwrittenOperand = false ∧ s.faults.busError = false

/-- The end of a run: the host makes no further access and PHASE = Idle (70_reset_and_hazards.md R224). -/
abbrev RunEnded (s : State) : Prop := s.schedule = [] ∧ s.phase = .idle

/-- A register holds a number its width admits and has one VALID bit per limb (10_state.md R21, R24; 00_scope.md R8). -/
abbrev RegWf (p : Params) (r : Reg) : Prop := r.mag < 2 ^ p.opw ∧ r.validLimbs.length = p.limbs

/-- The canonical form of the register file, which every operation on it keeps (Sys2Proof/Laws/Regs.lean). -/
abbrev RegsWf (s : State) : Prop := ∀ i : RegNum, RegWf s.params (getReg i s)

/-- ERRINFO holds a code of 60_exceptions.md R181 and zero reserved bits (10_state.md R34), and a code that is not NONE
while ERR = 1 (60_exceptions.md R183). -/
abbrev ErrInfoWf (s : State) : Prop :=
  (s.errInfo.extractLsb' 0 8).toNat ≤ 0x0A ∧ s.errInfo.extractLsb' 14 2 = 0 ∧
    (s.err = true → 1 ≤ (s.errInfo.extractLsb' 0 8).toNat)

/-- While Busy: the command in flight is the last accepted one (10_state.md R31, R32, R39), its latched values equal
the live registers (R40), and DONE is 0 (R39, R42). -/
abbrev InFlightWf (s : State) : Prop :=
  match s.phase with
  | .idle => True
  | .busy f => f.word = s.cmdLast ∧ f.seq = s.cmdSeq ∧ f.latch = latchOf f.word s ∧ s.done = false

/-- The invariant of the block: it holds after power-on reset and every step keeps it. -/
abbrev State.Inv (s : State) : Prop := s.params.Valid ∧ RegsWf s ∧ ErrInfoWf s ∧ InFlightWf s

/-- The command in flight is `i` and its latch holds the live values of its sources (10_state.md R37, R40). -/
def InFlightIs (i : Instr) (s : State) : Prop :=
  ∃ f, s.phase = .busy f ∧ decode f.word = .ok i ∧ f.latch = latchSources i s

/-- The destination registers of a command, those marked D in 30_encoding.md R87. -/
def destinations : Instr → List RegNum
  | .nop => []
  | .ldi rd _ => [rd]
  | .mov rd _ => [rd]
  | .mod rd _ _ => [rd]
  | .gcd rd _ _ => [rd]
  | .coprime rd _ _ => [rd]
  | .eea rd _ _ rc => [rd, rc]
  | .modmul rd _ _ _ => [rd]
  | .modpow rd _ _ _ => [rd]
  | .modinv rd _ _ => [rd]
  | .transform rd _ _ _ => [rd]
  | .crtdec rd _ _ => [rd]

/-- What no completion changes (10_state.md R38), and the model's own fields. -/
abbrev SameControl (s t : State) : Prop :=
  t.params = s.params ∧ t.irqEn = s.irqEn ∧ t.ovr = s.ovr ∧ t.werr = s.werr ∧ t.cmdLast = s.cmdLast ∧
    t.cmdSeq = s.cmdSeq ∧ t.faults = s.faults ∧ t.draws = s.draws ∧ t.answer = s.answer ∧ t.schedule = s.schedule

/-- The result flags are unchanged. -/
abbrev SameFlags (s t : State) : Prop := t.z = s.z ∧ t.one = s.one ∧ t.neg = s.neg

/-- Every register outside `ds` is unchanged, its bookkeeping included. -/
abbrev SameRegsExcept (ds : List RegNum) (s t : State) : Prop := ∀ r : RegNum, r ∉ ds → getReg r t = getReg r s

/-- The flags of primary result `v` (10_state.md R33). -/
abbrev FlagsOf (v : Int) (t : State) : Prop :=
  (t.z = true ↔ v = 0) ∧ (t.one = true ↔ v = 1) ∧ (t.neg = true ↔ v < 0)

/-- Register `rd` holds `v` as a command writes it: sign-magnitude without a negative zero (10_state.md R22), fully
written (R24). -/
abbrev HoldsResult (rd : RegNum) (v : Int) (t : State) : Prop :=
  readReg rd t = v ∧ ((getReg rd t).sign = true ↔ v < 0) ∧ regWritten t.params.limbs (getReg rd t) = true

/-- A successful completion, but for its register writes and flags: DONE set, Idle, no error recorded (10_state.md R42). -/
abbrev CommandDone (s t : State) : Prop :=
  t.done = true ∧ t.phase = .idle ∧ t.err = s.err ∧ t.errInfo = s.errInfo ∧ SameControl s t

/-- A successful completion that writes `v` to `rd` as its primary result, and nothing else. -/
abbrev CommitsOne (rd : RegNum) (v : Int) (s t : State) : Prop :=
  HoldsResult rd v t ∧ FlagsOf v t ∧ SameRegsExcept [rd] s t ∧ CommandDone s t

/-- ERRINFO after the command `f` failed with `code` (10_state.md R34; 60_exceptions.md R183). -/
abbrev ErrInfoRecords (code : BitVec 8) (f : InFlight) (s t : State) : Prop :=
  (s.err = true → t.errInfo = s.errInfo) ∧
    (s.err = false →
      t.errInfo.extractLsb' 0 8 = code ∧ t.errInfo.extractLsb' 8 6 = f.word.extractLsb' 26 6 ∧
        t.errInfo.extractLsb' 14 2 = 0 ∧ t.errInfo.extractLsb' 16 16 = f.seq.extractLsb' 0 16)

/-- A failed completion: the error recorded, no register, flag or other state written, DONE not set (60_exceptions.md
R183, R184). -/
abbrev CommandFailed (code : BitVec 8) (s t : State) : Prop :=
  (∃ f, s.phase = .busy f ∧ ErrInfoRecords code f s t) ∧ t.err = true ∧ t.done = s.done ∧ t.phase = .idle ∧
    t.regs = s.regs ∧ SameFlags s t ∧ SameControl s t

/-- The recursion of 40_number_theory.md R111 as a relation: `EeaPair a b s t` says that `eea(a, b)` returns `(s, t)`. -/
inductive EeaPair : Nat → Nat → Int → Int → Prop where
  | base (a : Nat) : EeaPair a 0 1 0
  | step (a b : Nat) (s' t' : Int) (hb : b ≠ 0) (rest : EeaPair b (a % b) s' t') :
      EeaPair a b t' (s' - (a / b : Nat) * t')

end Sys2Proof.Machine
end

