-- ==== Sys2Proof/Certificates/Slice0/Obligations.lean ====
section
/-! DEFINITION. The statements for the provers, from the spec's numbered rules. A statement about every state also holds
in states no run reaches; where it could not, `State.Inv` is its premise. The block has no memory (20_memory.md R60), so
a frame speaks of the operand registers, the control state and the model's own fields: together, all of State. -/

open Sys2Proof Sys2Proof.Machine

/-! ## Encoding -/

/-- 30_encoding.md R94: the six example lines, decoded and encoded. -/
def Obligations.ExampleWordsDecodeAndEncode : Prop :=
  (decode 0x00000000 = .ok .nop ∧ encode .nop = 0x00000000) ∧
  (decode 0x04800CA1 = .ok (.ldi 2 3233) ∧ encode (.ldi 2 3233) = 0x04800CA1) ∧
  (decode 0x28C04800 = .ok (.transform 3 0 1 2) ∧ encode (.transform 3 0 1 2) = 0x28C04800) ∧
  (decode 0x18C05000 = .ok (.eea 3 0 1 4) ∧ encode (asmEea 3 4 0 1) = 0x18C05000) ∧
  (decode 0x2C420000 = .ok (.crtdec 1 0 8) ∧ encode (.crtdec 1 0 8) = 0x2C420000) ∧
  (decode 0x21448C00 = .ok (.modpow 5 1 2 3) ∧ encode (.modpow 5 1 2 3) = 0x21448C00)

/-- 30_encoding.md R81 to R85, R90: no field of a well-formed command is lost. -/
def Obligations.DecodeOfEncode : Prop :=
  ∀ i : Instr, i.wellFormed = true → decode (encode i) = .ok i

/-- 30_encoding.md R86: a legal word has exactly one meaning, so it is the word of that meaning. -/
def Obligations.EncodeOfDecode : Prop :=
  ∀ (w : Word) (i : Instr), decode w = .ok i → encode i = w

/-- 30_encoding.md R84 and R86: the four conditions of legality, against the map written out (OP, match, mask). -/
def Obligations.LegalWords : Prop :=
  ∀ w : Word, (∃ i, decode w = .ok i) ↔
    (∃ row ∈ ([(0x00, 0x00000000, 0xFFFFFFFF), (0x01, 0x04000000, 0xFC3F0000), (0x02, 0x08000000, 0xFC03FFFF),
        (0x03, 0x0C000000, 0xFC003FFF), (0x04, 0x10000000, 0xFC003FFF), (0x05, 0x14000000, 0xFC003FFF),
        (0x06, 0x18000000, 0xFC0003FF), (0x07, 0x1C000000, 0xFC0003FF), (0x08, 0x20000000, 0xFC0003FF),
        (0x09, 0x24000000, 0xFC003FFF), (0x0A, 0x28000000, 0xFC0003FF), (0x0B, 0x2C000000, 0xFC003FFF)]
          : List (BitVec 6 × Word × Word)),
      w.extractLsb' 26 6 = row.1 ∧ w &&& row.2.2 = row.2.1) ∧
    (w.extractLsb' 26 6 = 0x06 → w.extractLsb' 22 4 ≠ w.extractLsb' 10 4) ∧
    (w.extractLsb' 26 6 = 0x0B → (w.extractLsb' 14 4).toNat ≤ 11)

/-- 30_encoding.md R86, R89: an illegal word is accepted, latches nothing, records no unwritten source, and completes
with error ILLEGAL (0x01), writing nothing. -/
def Obligations.IllegalWordFailsWithIllegal : Prop :=
  ∀ (w : Word) (e : DecodeError), decode w = .error e →
    (∀ s : State, s.phase = .idle →
      (hostAccess (.write 0x0014 .b4 w) s).phase = .busy { word := w, seq := s.cmdSeq + 1, latch := {} } ∧
      (hostAccess (.write 0x0014 .b4 w) s).faults = s.faults) ∧
    (∀ (s : State) (f : InFlight), s.phase = .busy f → f.word = w →
      ∃ t, engineTurn s = .next t ∧ CommandFailed 0x01 s t)

/-! ## Steps -/

/-- 10_state.md R41, 20_memory.md R70: a step at which the engine moves is `exec` of the decoded command, the turn taken
off the schedule; the other steps are a host access, a power-on reset, an idle engine's turn. -/
def Obligations.StepRunsDecodedInstruction : Prop :=
  (∀ (s : State) (f : InFlight) (i : Instr), s.schedule = [] → s.phase = .busy f → decode f.word = .ok i →
    step s = exec i s) ∧
  (∀ (s : State) (rest : List Turn) (f : InFlight) (i : Instr), s.schedule = .engine :: rest → s.phase = .busy f →
    decode f.word = .ok i → step s = exec i { s with schedule := rest }) ∧
  (∀ (s : State) (rest : List Turn) (a : Access), s.schedule = .host a :: rest →
    step s = .next (hostAccess a { s with schedule := rest })) ∧
  (∀ (s : State) (rest : List Turn), s.schedule = .engine :: rest → s.phase = .idle →
    step s = .next { s with schedule := rest }) ∧
  (∀ s : State, s.schedule = [] → s.phase = .idle → step s = .next s)

/-- No step of any state stops: every error is an outcome, not a trap (60_exceptions.md R180). -/
def Obligations.EveryStepAnswersNextState : Prop :=
  ∀ s : State, ∃ t, step s = .next t

/-- Every step keeps the invariant `State.Inv`, and the instance's parameters (10_state.md R27). -/
def Obligations.StepKeepsInvariant : Prop :=
  ∀ s t : State, s.Inv → step s = .next t → t.Inv ∧ t.params = s.params

/-- The invariant holds after power-on reset, of every instance. -/
def Obligations.PowerOnMeetsInvariant : Prop :=
  (∀ p : Params, p.Valid → (State.powerOn p).Inv) ∧ State.reset.Inv

/-- 70_reset_and_hazards.md R210: the rows of the table in `State.reset`, except the operand registers' unspecified
contents. -/
def Obligations.ResetLeavesTheTable : Prop :=
  (∀ i : RegNum, (getReg i State.reset).validSign = false ∧
    ∀ j : Nat, j < State.reset.params.limbs → (getReg i State.reset).validLimbs[j]? = some false) ∧
  State.reset.irqEn = false ∧ State.reset.phase = .idle ∧ State.reset.done = false ∧ State.reset.err = false ∧
  State.reset.ovr = false ∧ State.reset.werr = false ∧ irqLevel State.reset = false ∧ State.reset.z = false ∧
  State.reset.one = false ∧ State.reset.neg = false ∧ State.reset.errInfo = 0 ∧ State.reset.cmdLast = 0 ∧
  State.reset.cmdSeq = 0

/-- 70_reset_and_hazards.md R210, R212: a power-on reset leaves the same table, whatever was in flight. That the fault
record is kept is the model's choice (notes/assumptions/9.md). -/
def Obligations.PowerOnResetsARunningBlock : Prop :=
  ∀ (s : State) (rest : List Turn), s.schedule = .powerOn :: rest → ∃ t, step s = .next t ∧
    (∀ i : RegNum, (getReg i t).validSign = false ∧
      ∀ j : Nat, j < s.params.limbs → (getReg i t).validLimbs[j]? = some false) ∧
    t.params = s.params ∧ t.irqEn = false ∧ t.phase = .idle ∧ t.done = false ∧ t.err = false ∧ t.ovr = false ∧
    t.werr = false ∧ irqLevel t = false ∧ t.z = false ∧ t.one = false ∧ t.neg = false ∧ t.errInfo = 0 ∧
    t.cmdLast = 0 ∧ t.cmdSeq = 0 ∧ t.faults = s.faults ∧ t.schedule = rest

/-- 10_state.md R41, 70_reset_and_hazards.md R222: from every state the engine is Idle after finitely many steps, at most
one more than the steps to come. -/
def Obligations.EngineBecomesIdle : Prop :=
  ∀ s : State, ∃ k : Nat, k ≤ s.schedule.length + 1 ∧
    ∃ t : State, Host.Core.run core k s = .next t ∧ t.phase = .idle

/-- 10_state.md R39 to R41: a CMD write of a command's word to an Idle engine, followed by the engine's turn, runs that
command on the latched registers, which are the live ones. -/
def Obligations.IssueThenCompletionRunsTheCommand : Prop :=
  ∀ (s : State) (i : Instr) (rest : List Turn), i.wellFormed = true → s.phase = .idle →
    s.schedule = .host (.write 0x0014 .b4 (encode i)) :: .engine :: rest →
    ∃ u : State, InFlightIs i u ∧ u.regs = s.regs ∧ u.cmdSeq = s.cmdSeq + 1 ∧ u.schedule = rest ∧
      Host.Core.run core 2 s = exec i u

/-- 10_state.md R38, R31: CMDSEQ changes only by the accepted CMD write, which adds 1 and stores the word, and by a
reset, which leaves 0. -/
def Obligations.CommandCounterCountsIssues : Prop :=
  ∀ s t : State, step s = .next t → t.cmdSeq ≠ s.cmdSeq →
    (∃ w rest, s.schedule = .host (.write 0x0014 .b4 w) :: rest ∧ s.phase = .idle ∧ t.cmdSeq = s.cmdSeq + 1 ∧
      t.cmdLast = w) ∨
    (∃ w rest, s.schedule = .host (.write 0x0008 .b4 w) :: rest ∧ w.getLsbD 1 = true ∧ t.cmdSeq = 0) ∨
    (∃ rest, s.schedule = .powerOn :: rest ∧ t.cmdSeq = 0)

/-- 10_state.md R23, R38: the operand registers change only by a completion, by an aligned 32-bit host write to the window
or REG_SIGN while Idle, and by a power-on reset. -/
def Obligations.OperandRegistersChangeOnlyByTheirWriters : Prop :=
  ∀ s t : State, step s = .next t → t.regs ≠ s.regs →
    (∃ f, s.phase = .busy f ∧ (s.schedule = [] ∨ ∃ rest, s.schedule = .engine :: rest)) ∨
    (s.phase = .idle ∧ ∃ off w rest, s.schedule = .host (.write off .b4 w) :: rest ∧
      off.toNat % 4 = 0 ∧
      (off = 0x001C ∨ (0x1000 ≤ off.toNat ∧ off.toNat < 0x1000 + 64 * s.params.limbs))) ∨
    (∃ rest, s.schedule = .powerOn :: rest)

/-! ## Completions -/

/-- 10_state.md R41, R42; 60_exceptions.md R183, R184: every command in flight completes, by a commit (DONE set, no error
recorded) or by an error of codes 0x01 to 0x09 (no register and no flag written, DONE not set), and leaves Idle. -/
def Obligations.CompletionIsCommitOrError : Prop :=
  ∀ (i : Instr) (s : State) (f : InFlight), s.phase = .busy f →
    ∃ t, exec i s = .next t ∧
      (CommandDone s t ∨ ∃ code : BitVec 8, 1 ≤ code.toNat ∧ code.toNat ≤ 9 ∧ CommandFailed code s t)

/-- 10_state.md R33, R38; 30_encoding.md R87: the frame of every command. Outside its destinations no register changes;
the control state, CMD_LAST, CMDSEQ, OVR, WERR and the model's own fields stay; NOP changes no flag and no register. -/
def Obligations.EveryCommandKeepsItsFrame : Prop :=
  ∀ (i : Instr) (s t : State), exec i s = .next t →
    SameRegsExcept (destinations i) s t ∧ SameControl s t ∧ (i = .nop → t.regs = s.regs ∧ SameFlags s t)

/-- 10_state.md R41: the outcome depends only on the word and the latch. Two states with the same command in flight and
the same width complete alike: both commit, with the same values in the destination registers and the same flags where
there is a primary result, or both fail, and from ERR = 0 with the same ERRINFO. -/
def Obligations.OutcomeDependsOnlyOnTheLatch : Prop :=
  ∀ (i : Instr) (s₁ s₂ t₁ t₂ : State), s₁.phase = s₂.phase → s₁.params = s₂.params → s₁.done = false →
    s₂.done = false → exec i s₁ = .next t₁ → exec i s₂ = .next t₂ →
    t₁.done = t₂.done ∧
    (t₁.done = true → (∀ r ∈ destinations i, getReg r t₁ = getReg r t₂) ∧ (i ≠ .nop → SameFlags t₁ t₂)) ∧
    (s₁.err = false → s₂.err = false → t₁.err = t₂.err ∧ (t₁.done = false → t₁.errInfo = t₂.errInfo))

/-- 44_move_and_control.md R170: NOP sets DONE and changes no register and no flag. -/
def Obligations.NopSetsDone : Prop :=
  ∀ s : State, InFlightIs .nop s →
    ∃ t, exec .nop s = .next t ∧ t.regs = s.regs ∧ SameFlags s t ∧ CommandDone s t

/-- 44_move_and_control.md R171: RD holds the zero-extended immediate. -/
def Obligations.LdiWritesTheImmediate : Prop :=
  ∀ (s : State) (rd : RegNum) (imm : BitVec 16), InFlightIs (.ldi rd imm) s →
    ∃ t, exec (.ldi rd imm) s = .next t ∧ CommitsOne rd imm.toNat s t

/-- 44_move_and_control.md R172: RD holds RA's signed value; a negative zero loses its sign (10_state.md R22). -/
def Obligations.MovCopiesTheSignedValue : Prop :=
  ∀ (s : State) (rd ra : RegNum), InFlightIs (.mov rd ra) s →
    ∃ t, exec (.mov rd ra) s = .next t ∧ CommitsOne rd (readReg ra s) s t

/-- 41_modular_arithmetic.md R121: for every signed a and every n > 0 MOD returns the unique v with 0 ≤ v < n such that
n divides a - v. -/
def Obligations.ModReturnsTheResidue : Prop :=
  ∀ (s : State) (rd ra rb : RegNum), InFlightIs (.mod rd ra rb) s → 0 < readReg rb s →
    ∃ (v : Int) (t : State), exec (.mod rd ra rb) s = .next t ∧ CommitsOne rd v s t ∧
      0 ≤ v ∧ v < readReg rb s ∧ readReg rb s ∣ readReg ra s - v ∧
      ∀ u : Int, 0 ≤ u → u < readReg rb s → readReg rb s ∣ readReg ra s - u → u = v

/-- 40_number_theory.md R102: RD holds the greatest common divisor of two non-negative operands. -/
def Obligations.GcdWritesTheDivisor : Prop :=
  ∀ (s : State) (rd ra rb : RegNum), InFlightIs (.gcd rd ra rb) s → 0 ≤ readReg ra s → 0 ≤ readReg rb s →
    ∃ t, exec (.gcd rd ra rb) s = .next t ∧ CommitsOne rd (Int.gcd (readReg ra s) (readReg rb s)) s t

/-- 40_number_theory.md R104: RD holds 1 if the operands are coprime, else 0. -/
def Obligations.CoprimeWritesTheBoolean : Prop :=
  ∀ (s : State) (rd ra rb : RegNum), InFlightIs (.coprime rd ra rb) s → 0 ≤ readReg ra s → 0 ≤ readReg rb s →
    ∃ t, exec (.coprime rd ra rb) s = .next t ∧
      CommitsOne rd (if Int.gcd (readReg ra s) (readReg rb s) = 1 then 1 else 0) s t

/-- 40_number_theory.md R111, R112: RD and RC hold the pair of the recursion, flags from `s`, both written together.
The registers are within their width (`State.Inv`), so no OVERFLOW arises (R113). -/
def Obligations.EeaWritesTheRecursionsPair : Prop :=
  ∀ (st : State) (rd ra rb rc : RegNum), st.Inv → InFlightIs (.eea rd ra rb rc) st → 0 ≤ readReg ra st →
    0 ≤ readReg rb st →
    ∃ (s t : Int) (u : State), EeaPair (readReg ra st).toNat (readReg rb st).toNat s t ∧
      exec (.eea rd ra rb rc) st = .next u ∧ HoldsResult rd s u ∧ HoldsResult rc t u ∧ FlagsOf s u ∧
      SameRegsExcept [rd, rc] st u ∧ CommandDone st u

/-- 41_modular_arithmetic.md R123, R124: RD holds the exact classical residue of the product, for every modulus from 1
on and unreduced operands. -/
def Obligations.ModmulWritesTheExactResidue : Prop :=
  ∀ (s : State) (rd ra rb rc : RegNum), InFlightIs (.modmul rd ra rb rc) s → 0 ≤ readReg ra s → 0 ≤ readReg rb s →
    0 < readReg rc s →
    ∃ t, exec (.modmul rd ra rb rc) s = .next t ∧ CommitsOne rd (readReg ra s * readReg rb s % readReg rc s) s t

/-- 41_modular_arithmetic.md R131, R132: RD holds the residue of the power, for every modulus from 1 on (0 for 1), with
0^0 = 1. -/
def Obligations.ModpowWritesThePowersResidue : Prop :=
  ∀ (s : State) (rd ra rb rc : RegNum), InFlightIs (.modpow rd ra rb rc) s → 0 ≤ readReg ra s → 0 ≤ readReg rb s →
    0 < readReg rc s →
    ∃ t, exec (.modpow rd ra rb rc) s = .next t ∧
      CommitsOne rd (readReg ra s ^ (readReg rb s).toNat % readReg rc s) s t

/-- 42_modular_inverse.md R143: for t ≥ 2 and gcd(e, t) = 1, MODINV returns the unique d with 0 ≤ d < t and
d·e ≡ 1 (mod t). -/
def Obligations.ModinvReturnsTheInverse : Prop :=
  ∀ (s : State) (rd ra rb : RegNum), InFlightIs (.modinv rd ra rb) s → 0 ≤ readReg ra s → 2 ≤ readReg rb s →
    Int.gcd (readReg ra s) (readReg rb s) = 1 →
    ∃ (d : Int) (t : State), exec (.modinv rd ra rb) s = .next t ∧ CommitsOne rd d s t ∧
      0 ≤ d ∧ d < readReg rb s ∧ d * readReg ra s ≡ 1 [ZMOD readReg rb s] ∧
      ∀ x : Int, 0 ≤ x → x < readReg rb s → x * readReg ra s ≡ 1 [ZMOD readReg rb s] → x = d

/-- 43_cipher.md R151, R152: with m < n and the generalized condition, RD holds m^e mod n. -/
def Obligations.TransformWritesThePower : Prop :=
  ∀ (s : State) (rd ra rb rc : RegNum), InFlightIs (.transform rd ra rb rc) s → 0 ≤ readReg ra s →
    0 ≤ readReg rb s → readReg ra s < readReg rc s →
    (let g := Int.gcd (readReg ra s) (readReg rc s); Nat.gcd g ((readReg rc s).toNat / g) = 1) →
    ∃ t, exec (.transform rd ra rb rc) s = .next t ∧
      CommitsOne rd (readReg ra s ^ (readReg rb s).toNat % readReg rc s) s t

/-- 43_cipher.md R156, R157, R160: with its preconditions and a result that fits, RD holds m2 + h·q, which is below
p·q. -/
def Obligations.CrtdecWritesTheCombination : Prop :=
  ∀ (s : State) (rd ra rb : RegNum) (c p q dp dq : Nat) (qInv : Int), InFlightIs (.crtdec rd ra rb) s →
    readReg ra s = c → readReg rb s = p → readReg (rb + 1) s = q → readReg (rb + 2) s = dp →
    readReg (rb + 3) s = dq → readReg (rb + 4) s = qInv → 0 ≤ qInv → 2 < p → 2 < q → c < p * q →
    (let g := Nat.gcd c (p * q); Nat.gcd g (p * q / g) = 1) →
    ∀ m1 m2 h m : Int, m1 = (c ^ dp % p : Nat) → m2 = (c ^ dq % q : Nat) → h = qInv * (m1 - m2) % p →
      m = m2 + h * q → m < 2 ^ s.params.opw →
      (∃ t, exec (.crtdec rd ra rb) s = .next t ∧ CommitsOne rd m s t) ∧ 0 ≤ m ∧ m < p * q

/-! ## Errors -/

/-- 60_exceptions.md R181, R182: a negative unsigned source fails the command with NEG_OPERAND (0x02), whatever its other
operands; MOD checks its modulus only. -/
def Obligations.NegativeOperandFails : Prop :=
  (∀ s rd ra rb, InFlightIs (.mod rd ra rb) s → readReg rb s < 0 →
    ∃ t, exec (.mod rd ra rb) s = .next t ∧ CommandFailed 0x02 s t) ∧
  (∀ s rd ra rb, InFlightIs (.gcd rd ra rb) s → readReg ra s < 0 ∨ readReg rb s < 0 →
    ∃ t, exec (.gcd rd ra rb) s = .next t ∧ CommandFailed 0x02 s t) ∧
  (∀ s rd ra rb, InFlightIs (.coprime rd ra rb) s → readReg ra s < 0 ∨ readReg rb s < 0 →
    ∃ t, exec (.coprime rd ra rb) s = .next t ∧ CommandFailed 0x02 s t) ∧
  (∀ s rd ra rb rc, InFlightIs (.eea rd ra rb rc) s → readReg ra s < 0 ∨ readReg rb s < 0 →
    ∃ t, exec (.eea rd ra rb rc) s = .next t ∧ CommandFailed 0x02 s t) ∧
  (∀ s rd ra rb rc, InFlightIs (.modmul rd ra rb rc) s → readReg ra s < 0 ∨ readReg rb s < 0 ∨ readReg rc s < 0 →
    ∃ t, exec (.modmul rd ra rb rc) s = .next t ∧ CommandFailed 0x02 s t) ∧
  (∀ s rd ra rb rc, InFlightIs (.modpow rd ra rb rc) s → readReg ra s < 0 ∨ readReg rb s < 0 ∨ readReg rc s < 0 →
    ∃ t, exec (.modpow rd ra rb rc) s = .next t ∧ CommandFailed 0x02 s t) ∧
  (∀ s rd ra rb, InFlightIs (.modinv rd ra rb) s → readReg ra s < 0 ∨ readReg rb s < 0 →
    ∃ t, exec (.modinv rd ra rb) s = .next t ∧ CommandFailed 0x02 s t) ∧
  (∀ s rd ra rb rc, InFlightIs (.transform rd ra rb rc) s →
    readReg ra s < 0 ∨ readReg rb s < 0 ∨ readReg rc s < 0 →
    ∃ t, exec (.transform rd ra rb rc) s = .next t ∧ CommandFailed 0x02 s t) ∧
  (∀ s rd ra rb, InFlightIs (.crtdec rd ra rb) s →
    (∃ r ∈ [ra, rb, rb + 1, rb + 2, rb + 3, rb + 4], readReg r s < 0) →
    ∃ t, exec (.crtdec rd ra rb) s = .next t ∧ CommandFailed 0x02 s t)

/-- 60_exceptions.md R181: a zero modulus fails MOD, MODMUL, MODPOW and MODINV with MOD_ZERO (0x03), after the sign
checks (R182). -/
def Obligations.ZeroModulusFails : Prop :=
  (∀ s rd ra rb, InFlightIs (.mod rd ra rb) s → readReg rb s = 0 →
    ∃ t, exec (.mod rd ra rb) s = .next t ∧ CommandFailed 0x03 s t) ∧
  (∀ s rd ra rb rc, InFlightIs (.modmul rd ra rb rc) s → 0 ≤ readReg ra s → 0 ≤ readReg rb s → readReg rc s = 0 →
    ∃ t, exec (.modmul rd ra rb rc) s = .next t ∧ CommandFailed 0x03 s t) ∧
  (∀ s rd ra rb rc, InFlightIs (.modpow rd ra rb rc) s → 0 ≤ readReg ra s → 0 ≤ readReg rb s → readReg rc s = 0 →
    ∃ t, exec (.modpow rd ra rb rc) s = .next t ∧ CommandFailed 0x03 s t) ∧
  (∀ s rd ra rb, InFlightIs (.modinv rd ra rb) s → 0 ≤ readReg ra s → readReg rb s = 0 →
    ∃ t, exec (.modinv rd ra rb) s = .next t ∧ CommandFailed 0x03 s t)

/-- 42_modular_inverse.md R141: operands that are not coprime fail MODINV with NOT_COPRIME (0x04). -/
def Obligations.ModinvOfNonCoprimeFails : Prop :=
  ∀ (s : State) (rd ra rb : RegNum), InFlightIs (.modinv rd ra rb) s → 0 ≤ readReg ra s → 0 < readReg rb s →
    Int.gcd (readReg ra s) (readReg rb s) ≠ 1 →
    ∃ t, exec (.modinv rd ra rb) s = .next t ∧ CommandFailed 0x04 s t

/-- 42_modular_inverse.md R142: POSTCOND (0x08) is raised exactly when t = 1. The premises `s.Inv` and ERR = 0 make the
recorded code visible. -/
def Obligations.ModinvPostconditionFailsExactlyAtOne : Prop :=
  ∀ (s t : State) (rd ra rb : RegNum), s.Inv → s.err = false → InFlightIs (.modinv rd ra rb) s →
    exec (.modinv rd ra rb) s = .next t → 0 ≤ readReg ra s → 0 < readReg rb s →
    (CommandFailed 0x08 s t ↔ readReg rb s = 1)

/-- 43_cipher.md R151: TRANSFORM fails with RANGE (0x05) if m ≥ n, n = 0 included, then with GEN_COPRIME (0x06) if the
generalized condition fails. -/
def Obligations.TransformPreconditionsFail : Prop :=
  (∀ s rd ra rb rc, InFlightIs (.transform rd ra rb rc) s → 0 ≤ readReg ra s → 0 ≤ readReg rb s →
    0 ≤ readReg rc s → readReg rc s ≤ readReg ra s →
    ∃ t, exec (.transform rd ra rb rc) s = .next t ∧ CommandFailed 0x05 s t) ∧
  (∀ s rd ra rb rc, InFlightIs (.transform rd ra rb rc) s → 0 ≤ readReg ra s → 0 ≤ readReg rb s →
    readReg ra s < readReg rc s →
    (let g := Int.gcd (readReg ra s) (readReg rc s); Nat.gcd g ((readReg rc s).toNat / g) ≠ 1) →
    ∃ t, exec (.transform rd ra rb rc) s = .next t ∧ CommandFailed 0x06 s t)

/-- 43_cipher.md R156: CRTDEC fails with SMALL_PRIME (0x07), then RANGE (0x05), then GEN_COPRIME (0x06), in this order. -/
def Obligations.CrtdecPreconditionsFail : Prop :=
  ∀ (s : State) (rd ra rb : RegNum) (c p q dp dq qInv : Nat), InFlightIs (.crtdec rd ra rb) s →
    readReg ra s = c → readReg rb s = p → readReg (rb + 1) s = q → readReg (rb + 2) s = dp →
    readReg (rb + 3) s = dq → readReg (rb + 4) s = qInv →
    (p ≤ 2 ∨ q ≤ 2 → ∃ t, exec (.crtdec rd ra rb) s = .next t ∧ CommandFailed 0x07 s t) ∧
    (2 < p → 2 < q → p * q ≤ c → ∃ t, exec (.crtdec rd ra rb) s = .next t ∧ CommandFailed 0x05 s t) ∧
    (2 < p → 2 < q → c < p * q → (let g := Nat.gcd c (p * q); Nat.gcd g (p * q / g) ≠ 1) →
      ∃ t, exec (.crtdec rd ra rb) s = .next t ∧ CommandFailed 0x06 s t)

/-- 00_scope.md R7, 43_cipher.md R157: a CRTDEC result of 2^OPW or more is not truncated but fails with OVERFLOW
(0x09). -/
def Obligations.CrtdecOverflowFails : Prop :=
  ∀ (s : State) (rd ra rb : RegNum) (c p q dp dq : Nat) (qInv : Int), InFlightIs (.crtdec rd ra rb) s →
    readReg ra s = c → readReg rb s = p → readReg (rb + 1) s = q → readReg (rb + 2) s = dp →
    readReg (rb + 3) s = dq → readReg (rb + 4) s = qInv → 0 ≤ qInv → 2 < p → 2 < q → c < p * q →
    (let g := Nat.gcd c (p * q); Nat.gcd g (p * q / g) = 1) →
    ∀ m1 m2 h : Int, m1 = (c ^ dp % p : Nat) → m2 = (c ^ dq % q : Nat) → h = qInv * (m1 - m2) % p →
      2 ^ s.params.opw ≤ m2 + h * q →
      ∃ t, exec (.crtdec rd ra rb) s = .next t ∧ CommandFailed 0x09 s t

/-! ## Laws of the results -/

/-- 40_number_theory.md R103: gcd(a, b) = gcd(b, a) and gcd(a, 0) = a for all a, b ≥ 0, of the values that GCD writes. -/
def Obligations.GcdLaws : Prop :=
  (∀ (s s' : State) (rd ra rb : RegNum), InFlightIs (.gcd rd ra rb) s → InFlightIs (.gcd rd rb ra) s' →
    readReg ra s' = readReg ra s → readReg rb s' = readReg rb s → 0 ≤ readReg ra s → 0 ≤ readReg rb s →
    ∃ (v : Int) (t t' : State), exec (.gcd rd ra rb) s = .next t ∧ CommitsOne rd v s t ∧
      exec (.gcd rd rb ra) s' = .next t' ∧ CommitsOne rd v s' t') ∧
  (∀ (s : State) (rd ra rb : RegNum), InFlightIs (.gcd rd ra rb) s → 0 ≤ readReg ra s → readReg rb s = 0 →
    ∃ t, exec (.gcd rd ra rb) s = .next t ∧ CommitsOne rd (readReg ra s) s t)

/-- 40_number_theory.md R110: s·a + t·b = gcd(a, b) for the pair that EEA writes, for all a, b ≥ 0. -/
def Obligations.EeaMeetsBezoutsIdentity : Prop :=
  ∀ (st u : State) (rd ra rb rc : RegNum), st.Inv → InFlightIs (.eea rd ra rb rc) st → 0 ≤ readReg ra st →
    0 ≤ readReg rb st → exec (.eea rd ra rb rc) st = .next u →
    readReg rd u * readReg ra st + readReg rc u * readReg rb st = Int.gcd (readReg ra st) (readReg rb st)

/-- 40_number_theory.md R113: |s| ≤ max(1, b) and |t| ≤ max(1, a) for the pair that EEA writes, so no OVERFLOW arises.
The rule marks the bound "from general knowledge, not in source". -/
def Obligations.BezoutCoefficientsAreBounded : Prop :=
  ∀ (st : State) (rd ra rb rc : RegNum), st.Inv → InFlightIs (.eea rd ra rb rc) st → 0 ≤ readReg ra st →
    0 ≤ readReg rb st →
    ∃ u, exec (.eea rd ra rb rc) st = .next u ∧ CommandDone st u ∧
      |readReg rd u| ≤ max 1 (readReg rb st) ∧ |readReg rc u| ≤ max 1 (readReg ra st)

/-- 41_modular_arithmetic.md R133: modpow(b, 0, m) = 1 for m > 1, and modpow(b, e, 1) = 0, for all non-negative b and
e. -/
def Obligations.ModpowLaws : Prop :=
  (∀ s rd ra rb rc, InFlightIs (.modpow rd ra rb rc) s → 0 ≤ readReg ra s → readReg rb s = 0 → 1 < readReg rc s →
    ∃ t, exec (.modpow rd ra rb rc) s = .next t ∧ CommitsOne rd 1 s t) ∧
  (∀ s rd ra rb rc, InFlightIs (.modpow rd ra rb rc) s → 0 ≤ readReg ra s → 0 ≤ readReg rb s → readReg rc s = 1 →
    ∃ t, exec (.modpow rd ra rb rc) s = .next t ∧ CommitsOne rd 0 s t)

/-- 43_cipher.md R153: for an RSA key and every message below n, TRANSFORM with d undoes TRANSFORM with e. -/
def Obligations.TransformRoundTrip : Prop :=
  ∀ (p q e d m : Nat), p.Prime → q.Prime → p ≠ q → e * d % Nat.lcm (p - 1) (q - 1) = 1 → m < p * q →
    ∀ (s₁ s₂ t₁ : State) (rd ra rb rc rd' ra' rb' rc' : RegNum),
      InFlightIs (.transform rd ra rb rc) s₁ → readReg ra s₁ = m → readReg rb s₁ = e → readReg rc s₁ = (p * q : Nat) →
      exec (.transform rd ra rb rc) s₁ = .next t₁ →
      InFlightIs (.transform rd' ra' rb' rc') s₂ → readReg ra' s₂ = readReg rd t₁ → readReg rb' s₂ = d →
      readReg rc' s₂ = (p * q : Nat) →
      ∃ t₂, exec (.transform rd' ra' rb' rc') s₂ = .next t₂ ∧ CommitsOne rd' m s₂ t₂

/-- 43_cipher.md R158: for a valid key, CRTDEC writes the value that TRANSFORM with d writes. -/
def Obligations.CrtdecEqualsTransform : Prop :=
  ∀ (p q e d c qInv : Nat), p.Prime → q.Prime → p ≠ q → 2 < p → 2 < q →
    e * d % Nat.lcm (p - 1) (q - 1) = 1 → qInv < p → q * qInv % p = 1 → c < p * q →
    ∀ (s₁ s₂ : State) (rd ra rb rd' ra' rb' rc' : RegNum), p * q < 2 ^ s₁.params.opw →
      InFlightIs (.crtdec rd ra rb) s₁ → readReg ra s₁ = c → readReg rb s₁ = p → readReg (rb + 1) s₁ = q →
      readReg (rb + 2) s₁ = (d % (p - 1) : Nat) → readReg (rb + 3) s₁ = (d % (q - 1) : Nat) →
      readReg (rb + 4) s₁ = qInv →
      InFlightIs (.transform rd' ra' rb' rc') s₂ → readReg ra' s₂ = c → readReg rb' s₂ = d →
      readReg rc' s₂ = (p * q : Nat) →
      ∃ (m : Int) (t₁ t₂ : State), exec (.crtdec rd ra rb) s₁ = .next t₁ ∧ CommitsOne rd m s₁ t₁ ∧
        exec (.transform rd' ra' rb' rc') s₂ = .next t₂ ∧ CommitsOne rd' m s₂ t₂

/-! ## The bus port -/

/-- 10_state.md R39: issue. Every other field of the block is unchanged; the word is not rejected, legal or not. -/
def Obligations.CmdWriteWhileIdleIssues : Prop :=
  ∀ (s t : State) (w : Word), s.phase = .idle → t = hostAccess (.write 0x0014 .b4 w) s →
    t.cmdSeq = s.cmdSeq + 1 ∧ t.cmdLast = w ∧ t.done = false ∧
    t.phase = .busy { word := w, seq := t.cmdSeq, latch := latchOf w s } ∧
    t.err = s.err ∧ t.errInfo = s.errInfo ∧ t.ovr = s.ovr ∧ t.werr = s.werr ∧ SameFlags s t ∧ t.regs = s.regs ∧
    t.irqEn = s.irqEn ∧ t.params = s.params ∧ t.draws = s.draws ∧ t.schedule = s.schedule

/-- 10_state.md R24, R40: at issue UnwrittenOperand is recorded exactly for a legal word with a source that is not
written; BusError is untouched. -/
def Obligations.IssueRecordsUnwrittenSources : Prop :=
  ∀ (s t : State) (w : Word), s.phase = .idle → t = hostAccess (.write 0x0014 .b4 w) s →
    t.faults.busError = s.faults.busError ∧
    (t.faults.unwrittenOperand = true ↔ s.faults.unwrittenOperand = true ∨
      ∃ i r, decode w = .ok i ∧ r ∈ sources i ∧
        ¬((getReg r s).validSign = true ∧ ∀ j : Nat, j < s.params.limbs → (getReg r s).validLimbs[j]? = some true))

/-- 10_state.md R44: a CMD write while Busy is dropped and sets OVR, and nothing else. -/
def Obligations.CmdWriteWhileBusyIsDropped : Prop :=
  ∀ (s : State) (f : InFlight) (w : Word), s.phase = .busy f →
    hostAccess (.write 0x0014 .b4 w) s = { s with ovr := true, answer := some .writeDone }

/-- 10_state.md R43: a write to the window or REG_SIGN while Busy is dropped and sets WERR, and nothing else; while Idle
it takes effect (the limb or the signs hold what was written), every other part of every register is kept, and no field
but the registers and the answer changes, so WERR does not (R38; 20_memory.md R63). -/
def Obligations.OperandWritesWhileBusyAreDropped : Prop :=
  (∀ (s : State) (f : InFlight) (i : RegNum) (j : Nat) (w : Word), s.phase = .busy f → s.params.Valid →
    j < s.params.limbs →
    hostAccess (.write (BitVec.ofNat 16 (0x1000 + 4 * (i.toNat * s.params.limbs + j))) .b4 w) s =
      { s with werr := true, answer := some .writeDone }) ∧
  (∀ (s : State) (f : InFlight) (w : Word), s.phase = .busy f →
    hostAccess (.write 0x001C .b4 w) s = { s with werr := true, answer := some .writeDone }) ∧
  (∀ (s t : State) (i : RegNum) (j : Nat) (w : Word), s.phase = .idle → s.params.Valid → j < s.params.limbs →
    (getReg i s).validLimbs.length = s.params.limbs →
    t = hostAccess (.write (BitVec.ofNat 16 (0x1000 + 4 * (i.toNat * s.params.limbs + j))) .b4 w) s →
    t = { s with regs := t.regs, answer := some .writeDone } ∧
      (getReg i t).mag / 2 ^ (32 * j) % 2 ^ 32 = w.toNat ∧ (getReg i t).validLimbs[j]? = some true ∧
      (getReg i t).sign = (getReg i s).sign ∧ (getReg i t).validSign = (getReg i s).validSign ∧
      (∀ k : Nat, k ≠ j →
        (getReg i t).mag / 2 ^ (32 * k) % 2 ^ 32 = (getReg i s).mag / 2 ^ (32 * k) % 2 ^ 32 ∧
          (getReg i t).validLimbs[k]? = (getReg i s).validLimbs[k]?) ∧
      SameRegsExcept [i] s t) ∧
  (∀ (s t : State) (w : Word), s.phase = .idle → t = hostAccess (.write 0x001C .b4 w) s →
    t = { s with regs := t.regs, answer := some .writeDone } ∧ ∀ i : RegNum,
      (getReg i t).sign = w.getLsbD i.toNat ∧ (getReg i t).validSign = true ∧
        (getReg i t).mag = (getReg i s).mag ∧ (getReg i t).validLimbs = (getReg i s).validLimbs)

/-- 10_state.md R46: a STATUS write clears DONE, ERR, OVR and WERR where its bit is 1, and changes nothing else, Idle or
Busy; ERRINFO stays. -/
def Obligations.StatusWriteClearsByOne : Prop :=
  ∀ (s : State) (w : Word), hostAccess (.write 0x000C .b4 w) s =
    { s with
      done := s.done && !w.getLsbD 1
      err := s.err && !w.getLsbD 2
      ovr := s.ovr && !w.getLsbD 3
      werr := s.werr && !w.getLsbD 4
      answer := some .writeDone }

/-- 10_state.md R47: writes to ID, CFG, ERRINFO and CMDSEQ complete without a bus error and have no side effect. -/
def Obligations.ReadOnlyRegistersIgnoreWrites : Prop :=
  ∀ (s : State) (w : Word) (off : Offset), off ∈ [0x0000, 0x0004, 0x0010, 0x0018] →
    hostAccess (.write off .b4 w) s = { s with answer := some .writeDone }

/-- 20_memory.md R65: a legal access to a reserved offset reads 0 or has no effect, without a bus error. -/
def Obligations.ReservedOffsetsReadZeroAndIgnoreWrites : Prop :=
  ∀ (s : State) (off : Offset) (w : Word), off.toNat % 4 = 0 →
    (0x0020 ≤ off.toNat ∧ off.toNat < 0x1000) ∨ 0x1000 + 64 * s.params.limbs ≤ off.toNat →
    hostAccess (.read off .b4) s = { s with answer := some (.readData 0) } ∧
    hostAccess (.write off .b4 w) s = { s with answer := some .writeDone }

/-- 20_memory.md R64: an access of another size or a misaligned one is answered with `bus_err` = 1, changes no state of
the block, reads 0, and is recorded as the model fault BusError. -/
def Obligations.IllegalAccessesChangeNothing : Prop :=
  ∀ (s : State) (off : Offset) (size : AccessSize) (w : Word), size ≠ .b4 ∨ off.toNat % 4 ≠ 0 →
    (∃ a, hostAccess (.read off size) s =
        { s with faults := { s.faults with busError := true }, answer := some a } ∧
      busErrOf a = true ∧ busRdataOf a = some 0) ∧
    (∃ a, hostAccess (.write off size w) s =
        { s with faults := { s.faults with busError := true }, answer := some a } ∧ busErrOf a = true)

/-- 20_memory.md R68: a legal read has no side effect: only the answer and the model's count of draws can change. -/
def Obligations.ReadsHaveNoSideEffect : Prop :=
  ∀ (s t : State) (off : Offset), off.toNat % 4 = 0 → t = hostAccess (.read off .b4) s →
    t = { s with draws := t.draws, answer := t.answer } ∧ ∃ w, t.answer = some (.readData w)

/-- 10_state.md R26 to R29, R31, R32, R34: what the control registers read as, STATUS bit by bit. -/
def Obligations.ControlRegistersReadTheirFields : Prop :=
  ∀ s : State,
    (hostAccess (.read 0x0000 .b4) s).answer = some (.readData 0x4D454501) ∧
    (∃ w : Word, (hostAccess (.read 0x0004 .b4) s).answer = some (.readData w) ∧
      w.extractLsb' 0 16 = BitVec.ofNat 16 s.params.limbs ∧ w.extractLsb' 16 5 = 16 ∧ w.extractLsb' 21 11 = 0) ∧
    (∃ w : Word, (hostAccess (.read 0x0008 .b4) s).answer = some (.readData w) ∧ w.getLsbD 0 = s.irqEn ∧
      ∀ k : Nat, 1 ≤ k → w.getLsbD k = false) ∧
    (∃ w : Word, (hostAccess (.read 0x000C .b4) s).answer = some (.readData w) ∧
      (w.getLsbD 0 = true ↔ ∃ f, s.phase = .busy f) ∧ w.getLsbD 1 = s.done ∧ w.getLsbD 2 = s.err ∧
      w.getLsbD 3 = s.ovr ∧ w.getLsbD 4 = s.werr ∧ w.getLsbD 5 = irqLevel s ∧ w.getLsbD 6 = false ∧
      w.getLsbD 7 = false ∧ w.getLsbD 8 = s.z ∧ w.getLsbD 9 = s.one ∧ w.getLsbD 10 = s.neg ∧
      ∀ k : Nat, 11 ≤ k → w.getLsbD k = false) ∧
    (hostAccess (.read 0x0010 .b4) s).answer = some (.readData s.errInfo) ∧
    (hostAccess (.read 0x0014 .b4) s).answer = some (.readData s.cmdLast) ∧
    (hostAccess (.read 0x0018 .b4) s).answer = some (.readData s.cmdSeq)

/-- 60_exceptions.md R188: irq = IRQ_EN ∧ (DONE ∨ ERR), and STATUS[5] reads the same value. -/
def Obligations.InterruptLevel : Prop :=
  ∀ s : State, (irqLevel s = true ↔ s.irqEn = true ∧ (s.done = true ∨ s.err = true)) ∧
    ∃ w : Word, (hostAccess (.read 0x000C .b4) s).answer = some (.readData w) ∧ w.getLsbD 5 = irqLevel s

/-- 70_reset_and_hazards.md R211: the soft reset abandons the command in flight with no error recorded, sets the rows of
R210's table, and keeps the operand registers, their VALID bits and the fault record. -/
def Obligations.SoftResetKeepsTheOperandRegisters : Prop :=
  ∀ (s t : State) (w : Word), w.getLsbD 1 = true → t = hostAccess (.write 0x0008 .b4 w) s →
    t.regs = s.regs ∧ t.faults = s.faults ∧ t.params = s.params ∧ t.irqEn = false ∧ t.phase = .idle ∧
    t.done = false ∧ t.err = false ∧ t.ovr = false ∧ t.werr = false ∧ irqLevel t = false ∧ t.z = false ∧
    t.one = false ∧ t.neg = false ∧ t.errInfo = 0 ∧ t.cmdLast = 0 ∧ t.cmdSeq = 0 ∧ t.schedule = s.schedule

/-- 10_state.md R28, 60_exceptions.md R187: without SOFT_RESET, ABORT while Busy ends the command with ABORTED (0x0A) and
nothing written; while Idle it has no effect; IRQ_EN takes bit 0 in every case. -/
def Obligations.AbortEndsTheCommand : Prop :=
  ∀ (s t : State) (w : Word), w.getLsbD 1 = false → t = hostAccess (.write 0x0008 .b4 w) s →
    t.irqEn = w.getLsbD 0 ∧
    (∀ f, s.phase = .busy f → w.getLsbD 2 = true →
      ErrInfoRecords 0x0A f s t ∧ t.err = true ∧ t.done = s.done ∧ t.phase = .idle ∧ t.regs = s.regs ∧
      SameFlags s t ∧ t.ovr = s.ovr ∧ t.werr = s.werr ∧ t.cmdLast = s.cmdLast ∧ t.cmdSeq = s.cmdSeq ∧
      t.params = s.params ∧ t.faults = s.faults ∧ t.draws = s.draws ∧ t.schedule = s.schedule) ∧
    (s.phase = .idle ∨ w.getLsbD 2 = false →
      t = { s with irqEn := w.getLsbD 0, answer := some .writeDone })

/-- 20_memory.md R63, 10_state.md R45: a read of a written limb answers its bits in every state, Idle or Busy, and
changes nothing else. A limb written while Idle reads back at its offset, and is valid (10_state.md R24). Every other
limb of every register keeps its bits and its VALID bit, and one that is written reads as before; a read of an unwritten
one is a draw (R24), of which nothing is stated here. -/
def Obligations.WindowReadsWhatWasWritten : Prop :=
  (∀ (s : State) (i : RegNum) (j : Nat), s.params.Valid → j < s.params.limbs →
    (getReg i s).validLimbs[j]? = some true →
    hostAccess (.read (BitVec.ofNat 16 (0x1000 + 4 * (i.toNat * s.params.limbs + j))) .b4) s =
      { s with answer := some (.readData (BitVec.ofNat 32 ((getReg i s).mag / 2 ^ (32 * j)))) }) ∧
  (∀ (s t : State) (i : RegNum) (j : Nat) (w : Word), s.Inv → s.phase = .idle → j < s.params.limbs →
    t = hostAccess (.write (BitVec.ofNat 16 (0x1000 + 4 * (i.toNat * s.params.limbs + j))) .b4 w) s →
    (hostAccess (.read (BitVec.ofNat 16 (0x1000 + 4 * (i.toNat * s.params.limbs + j))) .b4) t).answer =
      some (.readData w) ∧
    (getReg i t).validLimbs[j]? = some true ∧
    ∀ (i' : RegNum) (j' : Nat), j' < s.params.limbs → (i', j') ≠ (i, j) →
      (getReg i' t).mag / 2 ^ (32 * j') % 2 ^ 32 = (getReg i' s).mag / 2 ^ (32 * j') % 2 ^ 32 ∧
      (getReg i' t).validLimbs[j']? = (getReg i' s).validLimbs[j']? ∧
      ((getReg i' s).validLimbs[j']? = some true →
        (hostAccess (.read (BitVec.ofNat 16 (0x1000 + 4 * (i'.toNat * s.params.limbs + j'))) .b4) t).answer =
          (hostAccess (.read (BitVec.ofNat 16 (0x1000 + 4 * (i'.toNat * s.params.limbs + j'))) .b4) s).answer))

/-- 70_reset_and_hazards.md R218: writing every limb of |v| and REG_SIGN with bit i = (v < 0) loads v into R[i], which is
then written. -/
def Obligations.WholeRegisterWriteLoadsTheValue : Prop :=
  ∀ (s t u : State) (i : RegNum) (v : Int) (signs : Word), s.Inv → s.phase = .idle →
    v.natAbs < 2 ^ s.params.opw → signs.getLsbD i.toNat = decide (v < 0) →
    t = (List.range s.params.limbs).foldl (fun x j =>
      hostAccess (.write (BitVec.ofNat 16 (0x1000 + 4 * (i.toNat * s.params.limbs + j))) .b4
        (BitVec.ofNat 32 (v.natAbs / 2 ^ (32 * j)))) x) s →
    u = hostAccess (.write 0x001C .b4 signs) t →
    readReg i u = v ∧ regWritten s.params.limbs (getReg i u) = true

/-- 10_state.md R35, R24: a REG_SIGN read has every written sign in its bit and zeros in [31:16]; an unwritten sign's bit
is whatever the draw gives. -/
def Obligations.RegSignReadsTheSigns : Prop :=
  ∀ s : State, ∃ w : Word, (hostAccess (.read 0x001C .b4) s).answer = some (.readData w) ∧
    (∀ i : RegNum, (getReg i s).validSign = true → w.getLsbD i.toNat = (getReg i s).sign) ∧
    ∀ k : Nat, 16 ≤ k → w.getLsbD k = false

/-- 10_state.md R24: a read of an unwritten limb answers a draw, a free value that a later draw need not equal. -/
def Obligations.UnwrittenLimbReadsADraw : Prop :=
  ∀ (s : State) (i : RegNum) (j : Nat), s.params.Valid → j < s.params.limbs →
    (getReg i s).validLimbs[j]? = some false →
    hostAccess (.read (BitVec.ofNat 16 (0x1000 + 4 * (i.toNat * s.params.limbs + j))) .b4) s =
      { s with draws := s.draws + 1, answer := some (.readData (Config.freeWord s.draws)) }
end

