-- ==== Sys2Proof/Laws/Arith.lean ====
section
/-! SUPPORT. What the integer functions of the command rules compute: the bounds of their recursions are never used
up, and they agree with the library's `%`, `Nat.gcd` and powers. -/

namespace Sys2Proof.Machine

/-- `mod(x, n)` of 00_scope.md R10 is the non-negative remainder. -/
theorem modulo_eq_emod {n : Int} (x : Int) (h : 0 ≤ n) : modulo x n = x % n := by
  unfold modulo
  rw [Int.fdiv_eq_ediv_of_nonneg x h, Int.emod_def]

theorem euclidLoop_eq_gcd {fuel b : Nat} (h : b ≤ fuel) (a : Nat) : euclidLoop fuel a b = Nat.gcd a b := by
  induction fuel generalizing a b with
  | zero => obtain rfl : b = 0 := by omega
            simp [euclidLoop]
  | succ fuel ih =>
    by_cases hb : b = 0
    · simp [euclidLoop, hb]
    · have hlt : a % b < b := Nat.mod_lt a (Nat.pos_of_ne_zero hb)
      simp only [euclidLoop, hb, if_false]
      rw [ih (by omega), Nat.gcd_comm a b, Nat.gcd_rec b a, Nat.gcd_comm]

/-- `gcd(a, b)` of 40_number_theory.md R101 is the greatest common divisor. -/
theorem euclid_eq_gcd (a b : Nat) : euclid a b = Nat.gcd a b := euclidLoop_eq_gcd le_rfl a

theorem bezoutLoop_stable {fuel b : Nat} (h : b ≤ fuel) (a : Nat) : bezoutLoop fuel a b = bezoutLoop b a b := by
  induction b using Nat.strong_induction_on generalizing fuel a with
  | _ b ih =>
    match fuel, b, h with
    | 0, 0, _ => rfl
    | fuel + 1, 0, _ => simp [bezoutLoop]
    | fuel + 1, b + 1, h =>
      have hlt : a % (b + 1) < b + 1 := Nat.mod_lt a (Nat.succ_pos b)
      have h1 := ih (a % (b + 1)) hlt (fuel := fuel) (by omega) (b + 1)
      have h2 := ih (a % (b + 1)) hlt (fuel := b) (by omega) (b + 1)
      simp only [bezoutLoop, h1, h2]

/-- The base case of 40_number_theory.md R111. -/
@[simp] theorem bezout_zero (a : Nat) : bezout a 0 = (1, 0) := rfl

/-- The recursive step of 40_number_theory.md R111. -/
theorem bezout_step {b : Nat} (a : Nat) (h : b ≠ 0) :
    bezout a b = ((bezout b (a % b)).2, (bezout b (a % b)).1 - (a / b : Nat) * (bezout b (a % b)).2) := by
  obtain ⟨n, rfl⟩ := Nat.exists_eq_succ_of_ne_zero h
  have hlt : a % (n + 1) < n + 1 := Nat.mod_lt a (Nat.succ_pos n)
  simp only [bezout, bezoutLoop, Nat.succ_eq_add_one, Nat.add_eq_zero_iff, one_ne_zero, and_false, if_false,
    bezoutLoop_stable (show a % (n + 1) ≤ n by omega)]

theorem powLoop_eq {fuel e m : Nat} (h : e ≤ fuel) (b acc : Nat) (hacc : acc < m) :
    powLoop fuel b acc e m = acc * b ^ e % m := by
  induction fuel generalizing e b acc with
  | zero =>
    obtain rfl : e = 0 := by omega
    simp [powLoop, Nat.mod_eq_of_lt hacc]
  | succ fuel ih =>
    by_cases he : e = 0
    · simp [powLoop, he, Nat.mod_eq_of_lt hacc]
    · have hm : 0 < m := by omega
      have hstep : (if e % 2 = 1 then acc * b % m else acc) < m := by
        split
        · exact Nat.mod_lt _ hm
        · exact hacc
      have hsq : ∀ k, (b * b % m) ^ k ≡ b ^ (2 * k) [MOD m] := fun k => by
        rw [pow_mul, pow_two]
        exact (Nat.mod_modEq (b * b) m).pow k
      simp only [powLoop, he, if_false]
      rw [ih (by omega) _ _ hstep]
      rcases Nat.even_or_odd' e with ⟨k, hk | hk⟩
      · have h1 : e % 2 ≠ 1 := by omega
        have h2 : e / 2 = k := by omega
        rw [if_neg h1, h2, hk]
        exact (Nat.ModEq.refl acc).mul (hsq k)
      · have h1 : e % 2 = 1 := by omega
        have h2 : e / 2 = k := by omega
        rw [if_pos h1, h2, hk]
        have := (Nat.mod_modEq (acc * b) m).mul (hsq k)
        rw [mul_assoc, ← pow_succ'] at this
        exact this

/-- `modpow` of 41_modular_arithmetic.md R131 is the residue of the power, for every modulus from 1 on. -/
theorem modpow_eq_pow_mod {m : Nat} (b e : Nat) (h : 1 ≤ m) : modpow b e m = b ^ e % m := by
  unfold modpow
  split
  · next h1 => simp [h1, Nat.mod_one]
  · next h1 =>
    rw [powLoop_eq le_rfl _ _ (by omega), one_mul]
    exact (Nat.mod_modEq b m).pow e

/-- The generalized condition of 43_cipher.md R152 in the library's terms. -/
theorem genCoprime_iff (x n : Nat) : genCoprime x n = true ↔ Nat.gcd (Nat.gcd x n) (n / Nat.gcd x n) = 1 := by
  simp [genCoprime, euclid_eq_gcd]

end Sys2Proof.Machine
end

