-- ==== Sys2Proof/Laws/State.lean ====
section
/-! SUPPORT. One lemma per field per update of the state, so that no proof unfolds a record update. -/

namespace Sys2Proof.Machine

/-! Register updates change the register file alone. -/

@[simp] theorem setReg_params (i : RegNum) (r : Reg) (s : State) : (setReg i r s).params = s.params := rfl
@[simp] theorem setReg_regs (i : RegNum) (r : Reg) (s : State) : (setReg i r s).regs = s.regs.set i.toNat r i.isLt := rfl
@[simp] theorem setReg_irqEn (i : RegNum) (r : Reg) (s : State) : (setReg i r s).irqEn = s.irqEn := rfl
@[simp] theorem setReg_done (i : RegNum) (r : Reg) (s : State) : (setReg i r s).done = s.done := rfl
@[simp] theorem setReg_err (i : RegNum) (r : Reg) (s : State) : (setReg i r s).err = s.err := rfl
@[simp] theorem setReg_ovr (i : RegNum) (r : Reg) (s : State) : (setReg i r s).ovr = s.ovr := rfl
@[simp] theorem setReg_werr (i : RegNum) (r : Reg) (s : State) : (setReg i r s).werr = s.werr := rfl
@[simp] theorem setReg_z (i : RegNum) (r : Reg) (s : State) : (setReg i r s).z = s.z := rfl
@[simp] theorem setReg_one (i : RegNum) (r : Reg) (s : State) : (setReg i r s).one = s.one := rfl
@[simp] theorem setReg_neg (i : RegNum) (r : Reg) (s : State) : (setReg i r s).neg = s.neg := rfl
@[simp] theorem setReg_errInfo (i : RegNum) (r : Reg) (s : State) : (setReg i r s).errInfo = s.errInfo := rfl
@[simp] theorem setReg_cmdLast (i : RegNum) (r : Reg) (s : State) : (setReg i r s).cmdLast = s.cmdLast := rfl
@[simp] theorem setReg_cmdSeq (i : RegNum) (r : Reg) (s : State) : (setReg i r s).cmdSeq = s.cmdSeq := rfl
@[simp] theorem setReg_phase (i : RegNum) (r : Reg) (s : State) : (setReg i r s).phase = s.phase := rfl
@[simp] theorem setReg_faults (i : RegNum) (r : Reg) (s : State) : (setReg i r s).faults = s.faults := rfl
@[simp] theorem setReg_draws (i : RegNum) (r : Reg) (s : State) : (setReg i r s).draws = s.draws := rfl
@[simp] theorem setReg_answer (i : RegNum) (r : Reg) (s : State) : (setReg i r s).answer = s.answer := rfl
@[simp] theorem setReg_schedule (i : RegNum) (r : Reg) (s : State) : (setReg i r s).schedule = s.schedule := rfl
@[simp] theorem writeReg_params (i : RegNum) (v : Int) (s : State) : (writeReg i v s).params = s.params := rfl
@[simp] theorem writeReg_irqEn (i : RegNum) (v : Int) (s : State) : (writeReg i v s).irqEn = s.irqEn := rfl
@[simp] theorem writeReg_done (i : RegNum) (v : Int) (s : State) : (writeReg i v s).done = s.done := rfl
@[simp] theorem writeReg_err (i : RegNum) (v : Int) (s : State) : (writeReg i v s).err = s.err := rfl
@[simp] theorem writeReg_ovr (i : RegNum) (v : Int) (s : State) : (writeReg i v s).ovr = s.ovr := rfl
@[simp] theorem writeReg_werr (i : RegNum) (v : Int) (s : State) : (writeReg i v s).werr = s.werr := rfl
@[simp] theorem writeReg_z (i : RegNum) (v : Int) (s : State) : (writeReg i v s).z = s.z := rfl
@[simp] theorem writeReg_one (i : RegNum) (v : Int) (s : State) : (writeReg i v s).one = s.one := rfl
@[simp] theorem writeReg_neg (i : RegNum) (v : Int) (s : State) : (writeReg i v s).neg = s.neg := rfl
@[simp] theorem writeReg_errInfo (i : RegNum) (v : Int) (s : State) : (writeReg i v s).errInfo = s.errInfo := rfl
@[simp] theorem writeReg_cmdLast (i : RegNum) (v : Int) (s : State) : (writeReg i v s).cmdLast = s.cmdLast := rfl
@[simp] theorem writeReg_cmdSeq (i : RegNum) (v : Int) (s : State) : (writeReg i v s).cmdSeq = s.cmdSeq := rfl
@[simp] theorem writeReg_phase (i : RegNum) (v : Int) (s : State) : (writeReg i v s).phase = s.phase := rfl
@[simp] theorem writeReg_faults (i : RegNum) (v : Int) (s : State) : (writeReg i v s).faults = s.faults := rfl
@[simp] theorem writeReg_draws (i : RegNum) (v : Int) (s : State) : (writeReg i v s).draws = s.draws := rfl
@[simp] theorem writeReg_answer (i : RegNum) (v : Int) (s : State) : (writeReg i v s).answer = s.answer := rfl
@[simp] theorem writeReg_schedule (i : RegNum) (v : Int) (s : State) : (writeReg i v s).schedule = s.schedule := rfl
@[simp] theorem writeLimb_params (i : RegNum) (j : Nat) (w : Word) (s : State) : (writeLimb i j w s).params = s.params := rfl
@[simp] theorem writeLimb_irqEn (i : RegNum) (j : Nat) (w : Word) (s : State) : (writeLimb i j w s).irqEn = s.irqEn := rfl
@[simp] theorem writeLimb_done (i : RegNum) (j : Nat) (w : Word) (s : State) : (writeLimb i j w s).done = s.done := rfl
@[simp] theorem writeLimb_err (i : RegNum) (j : Nat) (w : Word) (s : State) : (writeLimb i j w s).err = s.err := rfl
@[simp] theorem writeLimb_ovr (i : RegNum) (j : Nat) (w : Word) (s : State) : (writeLimb i j w s).ovr = s.ovr := rfl
@[simp] theorem writeLimb_werr (i : RegNum) (j : Nat) (w : Word) (s : State) : (writeLimb i j w s).werr = s.werr := rfl
@[simp] theorem writeLimb_z (i : RegNum) (j : Nat) (w : Word) (s : State) : (writeLimb i j w s).z = s.z := rfl
@[simp] theorem writeLimb_one (i : RegNum) (j : Nat) (w : Word) (s : State) : (writeLimb i j w s).one = s.one := rfl
@[simp] theorem writeLimb_neg (i : RegNum) (j : Nat) (w : Word) (s : State) : (writeLimb i j w s).neg = s.neg := rfl
@[simp] theorem writeLimb_errInfo (i : RegNum) (j : Nat) (w : Word) (s : State) : (writeLimb i j w s).errInfo = s.errInfo := rfl
@[simp] theorem writeLimb_cmdLast (i : RegNum) (j : Nat) (w : Word) (s : State) : (writeLimb i j w s).cmdLast = s.cmdLast := rfl
@[simp] theorem writeLimb_cmdSeq (i : RegNum) (j : Nat) (w : Word) (s : State) : (writeLimb i j w s).cmdSeq = s.cmdSeq := rfl
@[simp] theorem writeLimb_phase (i : RegNum) (j : Nat) (w : Word) (s : State) : (writeLimb i j w s).phase = s.phase := rfl
@[simp] theorem writeLimb_faults (i : RegNum) (j : Nat) (w : Word) (s : State) : (writeLimb i j w s).faults = s.faults := rfl
@[simp] theorem writeLimb_draws (i : RegNum) (j : Nat) (w : Word) (s : State) : (writeLimb i j w s).draws = s.draws := rfl
@[simp] theorem writeLimb_answer (i : RegNum) (j : Nat) (w : Word) (s : State) : (writeLimb i j w s).answer = s.answer := rfl
@[simp] theorem writeLimb_schedule (i : RegNum) (j : Nat) (w : Word) (s : State) : (writeLimb i j w s).schedule = s.schedule := rfl
@[simp] theorem writeSigns_params (w : Word) (s : State) : (writeSigns w s).params = s.params := rfl
@[simp] theorem writeSigns_irqEn (w : Word) (s : State) : (writeSigns w s).irqEn = s.irqEn := rfl
@[simp] theorem writeSigns_done (w : Word) (s : State) : (writeSigns w s).done = s.done := rfl
@[simp] theorem writeSigns_err (w : Word) (s : State) : (writeSigns w s).err = s.err := rfl
@[simp] theorem writeSigns_ovr (w : Word) (s : State) : (writeSigns w s).ovr = s.ovr := rfl
@[simp] theorem writeSigns_werr (w : Word) (s : State) : (writeSigns w s).werr = s.werr := rfl
@[simp] theorem writeSigns_z (w : Word) (s : State) : (writeSigns w s).z = s.z := rfl
@[simp] theorem writeSigns_one (w : Word) (s : State) : (writeSigns w s).one = s.one := rfl
@[simp] theorem writeSigns_neg (w : Word) (s : State) : (writeSigns w s).neg = s.neg := rfl
@[simp] theorem writeSigns_errInfo (w : Word) (s : State) : (writeSigns w s).errInfo = s.errInfo := rfl
@[simp] theorem writeSigns_cmdLast (w : Word) (s : State) : (writeSigns w s).cmdLast = s.cmdLast := rfl
@[simp] theorem writeSigns_cmdSeq (w : Word) (s : State) : (writeSigns w s).cmdSeq = s.cmdSeq := rfl
@[simp] theorem writeSigns_phase (w : Word) (s : State) : (writeSigns w s).phase = s.phase := rfl
@[simp] theorem writeSigns_faults (w : Word) (s : State) : (writeSigns w s).faults = s.faults := rfl
@[simp] theorem writeSigns_draws (w : Word) (s : State) : (writeSigns w s).draws = s.draws := rfl
@[simp] theorem writeSigns_answer (w : Word) (s : State) : (writeSigns w s).answer = s.answer := rfl
@[simp] theorem writeSigns_schedule (w : Word) (s : State) : (writeSigns w s).schedule = s.schedule := rfl

/-! The flags (10_state.md R33). -/

@[simp] theorem setFlags_params (primary : Option Int) (s : State) : (setFlags primary s).params = s.params := by
  cases primary <;> rfl
@[simp] theorem setFlags_regs (primary : Option Int) (s : State) : (setFlags primary s).regs = s.regs := by
  cases primary <;> rfl
@[simp] theorem setFlags_irqEn (primary : Option Int) (s : State) : (setFlags primary s).irqEn = s.irqEn := by
  cases primary <;> rfl
@[simp] theorem setFlags_done (primary : Option Int) (s : State) : (setFlags primary s).done = s.done := by
  cases primary <;> rfl
@[simp] theorem setFlags_err (primary : Option Int) (s : State) : (setFlags primary s).err = s.err := by
  cases primary <;> rfl
@[simp] theorem setFlags_ovr (primary : Option Int) (s : State) : (setFlags primary s).ovr = s.ovr := by
  cases primary <;> rfl
@[simp] theorem setFlags_werr (primary : Option Int) (s : State) : (setFlags primary s).werr = s.werr := by
  cases primary <;> rfl
@[simp] theorem setFlags_errInfo (primary : Option Int) (s : State) : (setFlags primary s).errInfo = s.errInfo := by
  cases primary <;> rfl
@[simp] theorem setFlags_cmdLast (primary : Option Int) (s : State) : (setFlags primary s).cmdLast = s.cmdLast := by
  cases primary <;> rfl
@[simp] theorem setFlags_cmdSeq (primary : Option Int) (s : State) : (setFlags primary s).cmdSeq = s.cmdSeq := by
  cases primary <;> rfl
@[simp] theorem setFlags_phase (primary : Option Int) (s : State) : (setFlags primary s).phase = s.phase := by
  cases primary <;> rfl
@[simp] theorem setFlags_faults (primary : Option Int) (s : State) : (setFlags primary s).faults = s.faults := by
  cases primary <;> rfl
@[simp] theorem setFlags_draws (primary : Option Int) (s : State) : (setFlags primary s).draws = s.draws := by
  cases primary <;> rfl
@[simp] theorem setFlags_answer (primary : Option Int) (s : State) : (setFlags primary s).answer = s.answer := by
  cases primary <;> rfl
@[simp] theorem setFlags_schedule (primary : Option Int) (s : State) : (setFlags primary s).schedule = s.schedule := by
  cases primary <;> rfl
@[simp] theorem setFlags_none (s : State) : setFlags none s = s := rfl
@[simp] theorem setFlags_some_z (v : Int) (s : State) : (setFlags (some v) s).z = decide (v = 0) := rfl
@[simp] theorem setFlags_some_one (v : Int) (s : State) : (setFlags (some v) s).one = decide (v = 1) := rfl
@[simp] theorem setFlags_some_neg (v : Int) (s : State) : (setFlags (some v) s).neg = decide (v < 0) := rfl

/-! The command cycle. -/

@[simp] theorem recordError_params (code : ErrorCode) (opcode : BitVec 6) (seq : Word) (s : State) : (recordError code opcode seq s).params = s.params := rfl
@[simp] theorem recordError_regs (code : ErrorCode) (opcode : BitVec 6) (seq : Word) (s : State) : (recordError code opcode seq s).regs = s.regs := rfl
@[simp] theorem recordError_irqEn (code : ErrorCode) (opcode : BitVec 6) (seq : Word) (s : State) : (recordError code opcode seq s).irqEn = s.irqEn := rfl
@[simp] theorem recordError_done (code : ErrorCode) (opcode : BitVec 6) (seq : Word) (s : State) : (recordError code opcode seq s).done = s.done := rfl
@[simp] theorem recordError_err (code : ErrorCode) (opcode : BitVec 6) (seq : Word) (s : State) : (recordError code opcode seq s).err = true := rfl
@[simp] theorem recordError_ovr (code : ErrorCode) (opcode : BitVec 6) (seq : Word) (s : State) : (recordError code opcode seq s).ovr = s.ovr := rfl
@[simp] theorem recordError_werr (code : ErrorCode) (opcode : BitVec 6) (seq : Word) (s : State) : (recordError code opcode seq s).werr = s.werr := rfl
@[simp] theorem recordError_z (code : ErrorCode) (opcode : BitVec 6) (seq : Word) (s : State) : (recordError code opcode seq s).z = s.z := rfl
@[simp] theorem recordError_one (code : ErrorCode) (opcode : BitVec 6) (seq : Word) (s : State) : (recordError code opcode seq s).one = s.one := rfl
@[simp] theorem recordError_neg (code : ErrorCode) (opcode : BitVec 6) (seq : Word) (s : State) : (recordError code opcode seq s).neg = s.neg := rfl
@[simp] theorem recordError_errInfo (code : ErrorCode) (opcode : BitVec 6) (seq : Word) (s : State) : (recordError code opcode seq s).errInfo = if s.err then s.errInfo else errInfoWord (codeOf code) opcode seq := rfl
@[simp] theorem recordError_cmdLast (code : ErrorCode) (opcode : BitVec 6) (seq : Word) (s : State) : (recordError code opcode seq s).cmdLast = s.cmdLast := rfl
@[simp] theorem recordError_cmdSeq (code : ErrorCode) (opcode : BitVec 6) (seq : Word) (s : State) : (recordError code opcode seq s).cmdSeq = s.cmdSeq := rfl
@[simp] theorem recordError_phase (code : ErrorCode) (opcode : BitVec 6) (seq : Word) (s : State) : (recordError code opcode seq s).phase = s.phase := rfl
@[simp] theorem recordError_faults (code : ErrorCode) (opcode : BitVec 6) (seq : Word) (s : State) : (recordError code opcode seq s).faults = s.faults := rfl
@[simp] theorem recordError_draws (code : ErrorCode) (opcode : BitVec 6) (seq : Word) (s : State) : (recordError code opcode seq s).draws = s.draws := rfl
@[simp] theorem recordError_answer (code : ErrorCode) (opcode : BitVec 6) (seq : Word) (s : State) : (recordError code opcode seq s).answer = s.answer := rfl
@[simp] theorem recordError_schedule (code : ErrorCode) (opcode : BitVec 6) (seq : Word) (s : State) : (recordError code opcode seq s).schedule = s.schedule := rfl
@[simp] theorem endCommand_params (s : State) : (endCommand s).params = s.params := rfl
@[simp] theorem endCommand_regs (s : State) : (endCommand s).regs = s.regs := rfl
@[simp] theorem endCommand_irqEn (s : State) : (endCommand s).irqEn = s.irqEn := rfl
@[simp] theorem endCommand_done (s : State) : (endCommand s).done = s.done := rfl
@[simp] theorem endCommand_err (s : State) : (endCommand s).err = s.err := rfl
@[simp] theorem endCommand_ovr (s : State) : (endCommand s).ovr = s.ovr := rfl
@[simp] theorem endCommand_werr (s : State) : (endCommand s).werr = s.werr := rfl
@[simp] theorem endCommand_z (s : State) : (endCommand s).z = s.z := rfl
@[simp] theorem endCommand_one (s : State) : (endCommand s).one = s.one := rfl
@[simp] theorem endCommand_neg (s : State) : (endCommand s).neg = s.neg := rfl
@[simp] theorem endCommand_errInfo (s : State) : (endCommand s).errInfo = s.errInfo := rfl
@[simp] theorem endCommand_cmdLast (s : State) : (endCommand s).cmdLast = s.cmdLast := rfl
@[simp] theorem endCommand_cmdSeq (s : State) : (endCommand s).cmdSeq = s.cmdSeq := rfl
@[simp] theorem endCommand_phase (s : State) : (endCommand s).phase = .idle := rfl
@[simp] theorem endCommand_faults (s : State) : (endCommand s).faults = s.faults := rfl
@[simp] theorem endCommand_draws (s : State) : (endCommand s).draws = s.draws := rfl
@[simp] theorem endCommand_answer (s : State) : (endCommand s).answer = s.answer := rfl
@[simp] theorem endCommand_schedule (s : State) : (endCommand s).schedule = s.schedule := rfl
@[simp] theorem acceptCommand_params (w : Word) (s : State) : (acceptCommand w s).params = s.params := rfl
@[simp] theorem acceptCommand_regs (w : Word) (s : State) : (acceptCommand w s).regs = s.regs := rfl
@[simp] theorem acceptCommand_irqEn (w : Word) (s : State) : (acceptCommand w s).irqEn = s.irqEn := rfl
@[simp] theorem acceptCommand_done (w : Word) (s : State) : (acceptCommand w s).done = false := rfl
@[simp] theorem acceptCommand_err (w : Word) (s : State) : (acceptCommand w s).err = s.err := rfl
@[simp] theorem acceptCommand_ovr (w : Word) (s : State) : (acceptCommand w s).ovr = s.ovr := rfl
@[simp] theorem acceptCommand_werr (w : Word) (s : State) : (acceptCommand w s).werr = s.werr := rfl
@[simp] theorem acceptCommand_z (w : Word) (s : State) : (acceptCommand w s).z = s.z := rfl
@[simp] theorem acceptCommand_one (w : Word) (s : State) : (acceptCommand w s).one = s.one := rfl
@[simp] theorem acceptCommand_neg (w : Word) (s : State) : (acceptCommand w s).neg = s.neg := rfl
@[simp] theorem acceptCommand_errInfo (w : Word) (s : State) : (acceptCommand w s).errInfo = s.errInfo := rfl
@[simp] theorem acceptCommand_cmdLast (w : Word) (s : State) : (acceptCommand w s).cmdLast = w := rfl
@[simp] theorem acceptCommand_cmdSeq (w : Word) (s : State) : (acceptCommand w s).cmdSeq = s.cmdSeq + 1 := rfl
@[simp] theorem acceptCommand_phase (w : Word) (s : State) : (acceptCommand w s).phase = .busy { word := w, seq := s.cmdSeq + 1, latch := latchOf w s } := rfl
@[simp] theorem acceptCommand_faults (w : Word) (s : State) : (acceptCommand w s).faults = { s.faults with unwrittenOperand := s.faults.unwrittenOperand || readsUnwritten w s } := rfl
@[simp] theorem acceptCommand_draws (w : Word) (s : State) : (acceptCommand w s).draws = s.draws := rfl
@[simp] theorem acceptCommand_answer (w : Word) (s : State) : (acceptCommand w s).answer = s.answer := rfl
@[simp] theorem acceptCommand_schedule (w : Word) (s : State) : (acceptCommand w s).schedule = s.schedule := rfl

/-! Resets: the rows of 70_reset_and_hazards.md R210, and what R211 keeps. -/

@[simp] theorem softReset_params (s : State) : (softReset s).params = s.params := rfl
@[simp] theorem softReset_regs (s : State) : (softReset s).regs = s.regs := rfl
@[simp] theorem softReset_irqEn (s : State) : (softReset s).irqEn = false := rfl
@[simp] theorem softReset_done (s : State) : (softReset s).done = false := rfl
@[simp] theorem softReset_err (s : State) : (softReset s).err = false := rfl
@[simp] theorem softReset_ovr (s : State) : (softReset s).ovr = false := rfl
@[simp] theorem softReset_werr (s : State) : (softReset s).werr = false := rfl
@[simp] theorem softReset_z (s : State) : (softReset s).z = false := rfl
@[simp] theorem softReset_one (s : State) : (softReset s).one = false := rfl
@[simp] theorem softReset_neg (s : State) : (softReset s).neg = false := rfl
@[simp] theorem softReset_errInfo (s : State) : (softReset s).errInfo = 0 := rfl
@[simp] theorem softReset_cmdLast (s : State) : (softReset s).cmdLast = 0 := rfl
@[simp] theorem softReset_cmdSeq (s : State) : (softReset s).cmdSeq = 0 := rfl
@[simp] theorem softReset_phase (s : State) : (softReset s).phase = .idle := rfl
@[simp] theorem softReset_faults (s : State) : (softReset s).faults = s.faults := rfl
@[simp] theorem softReset_draws (s : State) : (softReset s).draws = s.draws := rfl
@[simp] theorem softReset_answer (s : State) : (softReset s).answer = s.answer := rfl
@[simp] theorem softReset_schedule (s : State) : (softReset s).schedule = s.schedule := rfl
@[simp] theorem powerOnReset_params (s : State) : (powerOnReset s).params = s.params := rfl
@[simp] theorem powerOnReset_regs (s : State) : (powerOnReset s).regs = Vector.replicate 16 (Reg.unwritten s.params.limbs) := rfl
@[simp] theorem powerOnReset_irqEn (s : State) : (powerOnReset s).irqEn = false := rfl
@[simp] theorem powerOnReset_done (s : State) : (powerOnReset s).done = false := rfl
@[simp] theorem powerOnReset_err (s : State) : (powerOnReset s).err = false := rfl
@[simp] theorem powerOnReset_ovr (s : State) : (powerOnReset s).ovr = false := rfl
@[simp] theorem powerOnReset_werr (s : State) : (powerOnReset s).werr = false := rfl
@[simp] theorem powerOnReset_z (s : State) : (powerOnReset s).z = false := rfl
@[simp] theorem powerOnReset_one (s : State) : (powerOnReset s).one = false := rfl
@[simp] theorem powerOnReset_neg (s : State) : (powerOnReset s).neg = false := rfl
@[simp] theorem powerOnReset_errInfo (s : State) : (powerOnReset s).errInfo = 0 := rfl
@[simp] theorem powerOnReset_cmdLast (s : State) : (powerOnReset s).cmdLast = 0 := rfl
@[simp] theorem powerOnReset_cmdSeq (s : State) : (powerOnReset s).cmdSeq = 0 := rfl
@[simp] theorem powerOnReset_phase (s : State) : (powerOnReset s).phase = .idle := rfl
@[simp] theorem powerOnReset_faults (s : State) : (powerOnReset s).faults = s.faults := rfl
@[simp] theorem powerOnReset_draws (s : State) : (powerOnReset s).draws = s.draws := rfl
@[simp] theorem powerOnReset_answer (s : State) : (powerOnReset s).answer = none := rfl
@[simp] theorem powerOnReset_schedule (s : State) : (powerOnReset s).schedule = s.schedule := rfl

/-! The bus port. -/

@[simp] theorem recordBusError_params (s : State) : (recordBusError s).params = s.params := rfl
@[simp] theorem recordBusError_regs (s : State) : (recordBusError s).regs = s.regs := rfl
@[simp] theorem recordBusError_irqEn (s : State) : (recordBusError s).irqEn = s.irqEn := rfl
@[simp] theorem recordBusError_done (s : State) : (recordBusError s).done = s.done := rfl
@[simp] theorem recordBusError_err (s : State) : (recordBusError s).err = s.err := rfl
@[simp] theorem recordBusError_ovr (s : State) : (recordBusError s).ovr = s.ovr := rfl
@[simp] theorem recordBusError_werr (s : State) : (recordBusError s).werr = s.werr := rfl
@[simp] theorem recordBusError_z (s : State) : (recordBusError s).z = s.z := rfl
@[simp] theorem recordBusError_one (s : State) : (recordBusError s).one = s.one := rfl
@[simp] theorem recordBusError_neg (s : State) : (recordBusError s).neg = s.neg := rfl
@[simp] theorem recordBusError_errInfo (s : State) : (recordBusError s).errInfo = s.errInfo := rfl
@[simp] theorem recordBusError_cmdLast (s : State) : (recordBusError s).cmdLast = s.cmdLast := rfl
@[simp] theorem recordBusError_cmdSeq (s : State) : (recordBusError s).cmdSeq = s.cmdSeq := rfl
@[simp] theorem recordBusError_phase (s : State) : (recordBusError s).phase = s.phase := rfl
@[simp] theorem recordBusError_faults (s : State) : (recordBusError s).faults = { s.faults with busError := true } := rfl
@[simp] theorem recordBusError_draws (s : State) : (recordBusError s).draws = s.draws := rfl
@[simp] theorem recordBusError_answer (s : State) : (recordBusError s).answer = s.answer := rfl
@[simp] theorem recordBusError_schedule (s : State) : (recordBusError s).schedule = s.schedule := rfl
@[simp] theorem answerWith_params (a : Answer) (s : State) : (answerWith a s).params = s.params := rfl
@[simp] theorem answerWith_regs (a : Answer) (s : State) : (answerWith a s).regs = s.regs := rfl
@[simp] theorem answerWith_irqEn (a : Answer) (s : State) : (answerWith a s).irqEn = s.irqEn := rfl
@[simp] theorem answerWith_done (a : Answer) (s : State) : (answerWith a s).done = s.done := rfl
@[simp] theorem answerWith_err (a : Answer) (s : State) : (answerWith a s).err = s.err := rfl
@[simp] theorem answerWith_ovr (a : Answer) (s : State) : (answerWith a s).ovr = s.ovr := rfl
@[simp] theorem answerWith_werr (a : Answer) (s : State) : (answerWith a s).werr = s.werr := rfl
@[simp] theorem answerWith_z (a : Answer) (s : State) : (answerWith a s).z = s.z := rfl
@[simp] theorem answerWith_one (a : Answer) (s : State) : (answerWith a s).one = s.one := rfl
@[simp] theorem answerWith_neg (a : Answer) (s : State) : (answerWith a s).neg = s.neg := rfl
@[simp] theorem answerWith_errInfo (a : Answer) (s : State) : (answerWith a s).errInfo = s.errInfo := rfl
@[simp] theorem answerWith_cmdLast (a : Answer) (s : State) : (answerWith a s).cmdLast = s.cmdLast := rfl
@[simp] theorem answerWith_cmdSeq (a : Answer) (s : State) : (answerWith a s).cmdSeq = s.cmdSeq := rfl
@[simp] theorem answerWith_phase (a : Answer) (s : State) : (answerWith a s).phase = s.phase := rfl
@[simp] theorem answerWith_faults (a : Answer) (s : State) : (answerWith a s).faults = s.faults := rfl
@[simp] theorem answerWith_draws (a : Answer) (s : State) : (answerWith a s).draws = s.draws := rfl
@[simp] theorem answerWith_answer (a : Answer) (s : State) : (answerWith a s).answer = some a := rfl
@[simp] theorem answerWith_schedule (a : Answer) (s : State) : (answerWith a s).schedule = s.schedule := rfl

/-! The writes of a commit change the register file alone. -/

@[simp] theorem applyWrites_params (ws : List (RegNum × Int)) (s : State) : (applyWrites ws s).params = s.params := by
  induction ws generalizing s with
  | nil => rfl
  | cons w ws ih => simp [applyWrites, ih]
@[simp] theorem applyWrites_irqEn (ws : List (RegNum × Int)) (s : State) : (applyWrites ws s).irqEn = s.irqEn := by
  induction ws generalizing s with
  | nil => rfl
  | cons w ws ih => simp [applyWrites, ih]
@[simp] theorem applyWrites_done (ws : List (RegNum × Int)) (s : State) : (applyWrites ws s).done = s.done := by
  induction ws generalizing s with
  | nil => rfl
  | cons w ws ih => simp [applyWrites, ih]
@[simp] theorem applyWrites_err (ws : List (RegNum × Int)) (s : State) : (applyWrites ws s).err = s.err := by
  induction ws generalizing s with
  | nil => rfl
  | cons w ws ih => simp [applyWrites, ih]
@[simp] theorem applyWrites_ovr (ws : List (RegNum × Int)) (s : State) : (applyWrites ws s).ovr = s.ovr := by
  induction ws generalizing s with
  | nil => rfl
  | cons w ws ih => simp [applyWrites, ih]
@[simp] theorem applyWrites_werr (ws : List (RegNum × Int)) (s : State) : (applyWrites ws s).werr = s.werr := by
  induction ws generalizing s with
  | nil => rfl
  | cons w ws ih => simp [applyWrites, ih]
@[simp] theorem applyWrites_z (ws : List (RegNum × Int)) (s : State) : (applyWrites ws s).z = s.z := by
  induction ws generalizing s with
  | nil => rfl
  | cons w ws ih => simp [applyWrites, ih]
@[simp] theorem applyWrites_one (ws : List (RegNum × Int)) (s : State) : (applyWrites ws s).one = s.one := by
  induction ws generalizing s with
  | nil => rfl
  | cons w ws ih => simp [applyWrites, ih]
@[simp] theorem applyWrites_neg (ws : List (RegNum × Int)) (s : State) : (applyWrites ws s).neg = s.neg := by
  induction ws generalizing s with
  | nil => rfl
  | cons w ws ih => simp [applyWrites, ih]
@[simp] theorem applyWrites_errInfo (ws : List (RegNum × Int)) (s : State) : (applyWrites ws s).errInfo = s.errInfo := by
  induction ws generalizing s with
  | nil => rfl
  | cons w ws ih => simp [applyWrites, ih]
@[simp] theorem applyWrites_cmdLast (ws : List (RegNum × Int)) (s : State) : (applyWrites ws s).cmdLast = s.cmdLast := by
  induction ws generalizing s with
  | nil => rfl
  | cons w ws ih => simp [applyWrites, ih]
@[simp] theorem applyWrites_cmdSeq (ws : List (RegNum × Int)) (s : State) : (applyWrites ws s).cmdSeq = s.cmdSeq := by
  induction ws generalizing s with
  | nil => rfl
  | cons w ws ih => simp [applyWrites, ih]
@[simp] theorem applyWrites_phase (ws : List (RegNum × Int)) (s : State) : (applyWrites ws s).phase = s.phase := by
  induction ws generalizing s with
  | nil => rfl
  | cons w ws ih => simp [applyWrites, ih]
@[simp] theorem applyWrites_faults (ws : List (RegNum × Int)) (s : State) : (applyWrites ws s).faults = s.faults := by
  induction ws generalizing s with
  | nil => rfl
  | cons w ws ih => simp [applyWrites, ih]
@[simp] theorem applyWrites_draws (ws : List (RegNum × Int)) (s : State) : (applyWrites ws s).draws = s.draws := by
  induction ws generalizing s with
  | nil => rfl
  | cons w ws ih => simp [applyWrites, ih]
@[simp] theorem applyWrites_answer (ws : List (RegNum × Int)) (s : State) : (applyWrites ws s).answer = s.answer := by
  induction ws generalizing s with
  | nil => rfl
  | cons w ws ih => simp [applyWrites, ih]
@[simp] theorem applyWrites_schedule (ws : List (RegNum × Int)) (s : State) : (applyWrites ws s).schedule = s.schedule := by
  induction ws generalizing s with
  | nil => rfl
  | cons w ws ih => simp [applyWrites, ih]

/-! A commit (10_state.md R42). -/

@[simp] theorem commit_params (ws : List (RegNum × Int)) (p : Option Int) (s : State) : (commit ws p s).params = s.params := by
  simp [commit]
@[simp] theorem commit_irqEn (ws : List (RegNum × Int)) (p : Option Int) (s : State) : (commit ws p s).irqEn = s.irqEn := by
  simp [commit]
@[simp] theorem commit_done (ws : List (RegNum × Int)) (p : Option Int) (s : State) : (commit ws p s).done = true := by
  simp [commit]
@[simp] theorem commit_err (ws : List (RegNum × Int)) (p : Option Int) (s : State) : (commit ws p s).err = s.err := by
  simp [commit]
@[simp] theorem commit_ovr (ws : List (RegNum × Int)) (p : Option Int) (s : State) : (commit ws p s).ovr = s.ovr := by
  simp [commit]
@[simp] theorem commit_werr (ws : List (RegNum × Int)) (p : Option Int) (s : State) : (commit ws p s).werr = s.werr := by
  simp [commit]
@[simp] theorem commit_errInfo (ws : List (RegNum × Int)) (p : Option Int) (s : State) : (commit ws p s).errInfo = s.errInfo := by
  simp [commit]
@[simp] theorem commit_cmdLast (ws : List (RegNum × Int)) (p : Option Int) (s : State) : (commit ws p s).cmdLast = s.cmdLast := by
  simp [commit]
@[simp] theorem commit_cmdSeq (ws : List (RegNum × Int)) (p : Option Int) (s : State) : (commit ws p s).cmdSeq = s.cmdSeq := by
  simp [commit]
@[simp] theorem commit_phase (ws : List (RegNum × Int)) (p : Option Int) (s : State) : (commit ws p s).phase = s.phase := by
  simp [commit]
@[simp] theorem commit_faults (ws : List (RegNum × Int)) (p : Option Int) (s : State) : (commit ws p s).faults = s.faults := by
  simp [commit]
@[simp] theorem commit_draws (ws : List (RegNum × Int)) (p : Option Int) (s : State) : (commit ws p s).draws = s.draws := by
  simp [commit]
@[simp] theorem commit_answer (ws : List (RegNum × Int)) (p : Option Int) (s : State) : (commit ws p s).answer = s.answer := by
  simp [commit]
@[simp] theorem commit_schedule (ws : List (RegNum × Int)) (p : Option Int) (s : State) : (commit ws p s).schedule = s.schedule := by
  simp [commit]

/-! Reading a register after one was replaced. -/

@[simp] theorem getReg_setReg_self (i : RegNum) (r : Reg) (s : State) : getReg i (setReg i r s) = r := by
  simp [getReg, setReg]

@[simp] theorem getReg_setReg_ne {i j : RegNum} (h : j ≠ i) (r : Reg) (s : State) :
    getReg j (setReg i r s) = getReg j s := by
  have h' : i.toNat ≠ j.toNat := fun e => h (BitVec.eq_of_toNat_eq e.symm)
  simp [getReg, setReg, h']

theorem getReg_setReg (i j : RegNum) (r : Reg) (s : State) :
    getReg j (setReg i r s) = if j = i then r else getReg j s := by
  by_cases h : j = i
  · subst h; simp
  · simp [h]

/-- Registers are read from the register file alone. -/
theorem getReg_congr {s t : State} (h : t.regs = s.regs) (i : RegNum) : getReg i t = getReg i s := by
  simp [getReg, h]

/-- Two states whose registers read the same have the same register file. -/
theorem regs_eq_of_getReg {s t : State} (h : ∀ i : RegNum, getReg i t = getReg i s) : t.regs = s.regs := by
  apply Vector.ext
  intro k hk
  have := h (BitVec.ofNat 4 k)
  simp only [getReg, BitVec.toNat_ofNat, Nat.mod_eq_of_lt hk] at this
  exact this

end Sys2Proof.Machine
end

