-- ==== Sys2Proof/Laws/Regs.lean ====
section
/-! SUPPORT. Limbs of a magnitude, and that every operation on the register file keeps its canonical form `RegsWf`
(10_state.md R21, R24; 20_memory.md R63). -/

namespace Sys2Proof.Machine

theorem pow_limb_succ (j : Nat) : 2 ^ (32 * (j + 1)) = 2 ^ (32 * j) * 2 ^ 32 := by
  rw [Nat.mul_add, pow_add]

/-- The limb just written reads as written. -/
@[simp] theorem limbOf_withLimb_self (mag j : Nat) (w : Word) : limbOf (withLimb mag j w) j = w := by
  have hB : 0 < 2 ^ (32 * j) := by positivity
  apply BitVec.eq_of_toNat_eq
  simp only [limbOf, withLimb, BitVec.toNat_ofNat, Nat.add_mul_div_left _ _ hB, Nat.div_eq_of_lt (Nat.mod_lt mag hB),
    Nat.zero_add, Nat.add_mul_mod_self_left]
  exact Nat.mod_eq_of_lt w.isLt

/-- Limbs below the one written are kept. -/
theorem limbOf_withLimb_lt {k j : Nat} (h : k < j) (mag : Nat) (w : Word) :
    limbOf (withLimb mag j w) k = limbOf mag k := by
  obtain ⟨d, rfl⟩ : ∃ d, j = k + 1 + d := ⟨j - k - 1, by omega⟩
  have hB : (2 : Nat) ^ (32 * (k + 1 + d)) = 2 ^ (32 * k) * (2 ^ 32 * 2 ^ (32 * d)) := by
    rw [← pow_add, ← pow_add]; congr 1; ring
  have hk : 0 < 2 ^ (32 * k) := by positivity
  apply BitVec.eq_of_toNat_eq
  simp only [limbOf, BitVec.toNat_ofNat]
  have hmod : ∀ x y : Nat, x ≡ y [MOD 2 ^ (32 * k) * 2 ^ 32] →
      x / 2 ^ (32 * k) % 2 ^ 32 = y / 2 ^ (32 * k) % 2 ^ 32 := fun x y hxy => by
    rw [← Nat.mod_mul_right_div_self x, ← Nat.mod_mul_right_div_self y, hxy]
  apply hmod
  have hdvd : 2 ^ (32 * k) * 2 ^ 32 ∣ 2 ^ (32 * (k + 1 + d)) := ⟨2 ^ (32 * d), by rw [hB, mul_assoc]⟩
  have h1 : withLimb mag (k + 1 + d) w ≡ mag [MOD 2 ^ (32 * (k + 1 + d))] := by
    unfold withLimb Nat.ModEq
    rw [Nat.add_mul_mod_self_left, Nat.mod_mod]
  exact h1.of_dvd hdvd

/-- What lies above the limb written is kept. -/
theorem withLimb_div (mag j : Nat) (w : Word) :
    withLimb mag j w / 2 ^ (32 * (j + 1)) = mag / 2 ^ (32 * (j + 1)) := by
  have hB : 0 < 2 ^ (32 * j) := by positivity
  rw [pow_limb_succ, ← Nat.div_div_eq_div_mul, ← Nat.div_div_eq_div_mul, withLimb, Nat.add_mul_div_left _ _ hB,
    Nat.div_eq_of_lt (Nat.mod_lt mag hB), Nat.zero_add, Nat.add_mul_div_left _ _ (by positivity),
    Nat.div_eq_of_lt w.isLt, Nat.zero_add, pow_limb_succ, Nat.div_div_eq_div_mul]

/-- Limbs above the one written are kept. -/
theorem limbOf_withLimb_gt {k j : Nat} (h : j < k) (mag : Nat) (w : Word) :
    limbOf (withLimb mag j w) k = limbOf mag k := by
  obtain ⟨d, rfl⟩ : ∃ d, k = j + 1 + d := ⟨k - j - 1, by omega⟩
  have hB : (2 : Nat) ^ (32 * (j + 1 + d)) = 2 ^ (32 * (j + 1)) * 2 ^ (32 * d) := by
    rw [← pow_add]; congr 1; ring
  simp only [limbOf, hB, ← Nat.div_div_eq_div_mul, withLimb_div]

/-- Every limb but the one written is kept (20_memory.md R63). -/
theorem limbOf_withLimb_ne {k j : Nat} (h : k ≠ j) (mag : Nat) (w : Word) :
    limbOf (withLimb mag j w) k = limbOf mag k := by
  rcases Nat.lt_or_gt_of_ne h with h | h
  · exact limbOf_withLimb_lt h mag w
  · exact limbOf_withLimb_gt h mag w

/-- A limb inside the register keeps the magnitude inside its width. -/
theorem withLimb_lt {limbs j mag : Nat} (hj : j < limbs) (h : mag < 2 ^ (32 * limbs)) (w : Word) :
    withLimb mag j w < 2 ^ (32 * limbs) := by
  obtain ⟨d, rfl⟩ : ∃ d, limbs = j + 1 + d := ⟨limbs - j - 1, by omega⟩
  have hB : (2 : Nat) ^ (32 * (j + 1 + d)) = 2 ^ (32 * (j + 1)) * 2 ^ (32 * d) := by
    rw [← pow_add]; congr 1; ring
  rw [hB] at h ⊢
  have h1 := withLimb_div mag j w
  have h2 : mag / 2 ^ (32 * (j + 1)) < 2 ^ (32 * d) := Nat.div_lt_of_lt_mul h
  rw [Nat.mul_comm]
  exact (Nat.div_lt_iff_lt_mul (by positivity)).mp (h1 ▸ h2)

/-- The value just written to a register reads back (10_state.md R21, R22). -/
@[simp] theorem regValue_regOf (limbs : Nat) (v : Int) : regValue (regOf limbs v) = v := by
  unfold regValue regOf
  by_cases h : v < 0
  · simp [h, abs_of_neg]
  · simp [h, abs_of_nonneg (not_lt.mp h)]

/-- A register a command wrote is written (10_state.md R24). -/
@[simp] theorem regWritten_regOf (limbs : Nat) (v : Int) : regWritten limbs (regOf limbs v) = true := by
  simp [regWritten, regOf]
  intro j hj
  simp [hj]

theorem readReg_writeReg_self (i : RegNum) (v : Int) (s : State) : readReg i (writeReg i v s) = v := by
  simp [readReg, writeReg]

theorem getReg_writeReg_ne {i j : RegNum} (h : j ≠ i) (v : Int) (s : State) :
    getReg j (writeReg i v s) = getReg j s := by
  simp [writeReg, h]

/-- A register read after a REG_SIGN write: its sign is its bit of the word (10_state.md R35). -/
@[simp] theorem getReg_writeSigns (i : RegNum) (w : Word) (s : State) :
    getReg i (writeSigns w s) = { getReg i s with sign := w.getLsbD i.toNat, validSign := true } := by
  simp [getReg, writeSigns]

theorem unwritten_wf (p : Params) : RegWf p (Reg.unwritten p.limbs) := by
  refine ⟨?_, ?_⟩
  · simp [Reg.unwritten]
  · simp [Reg.unwritten]

/-- The register file after power-on reset is in canonical form. -/
theorem powerOn_regsWf (p : Params) : RegsWf (State.powerOn p) := by
  intro i
  have : getReg i (State.powerOn p) = Reg.unwritten p.limbs := by simp [getReg, State.powerOn]
  rw [this]
  exact unwritten_wf p

theorem reset_regsWf : RegsWf State.reset := powerOn_regsWf _

/-- A command's write keeps the canonical form if the value fits (10_state.md R22). -/
theorem writeReg_regsWf {s : State} (h : RegsWf s) (i : RegNum) {v : Int} (hv : v.natAbs < 2 ^ s.params.opw) :
    RegsWf (writeReg i v s) := by
  intro j
  by_cases hj : j = i
  · subst hj
    simpa [writeReg, RegWf, regOf] using hv
  · simpa [writeReg, hj] using h j

/-- A host write of a limb keeps the canonical form. -/
theorem writeLimb_regsWf {s : State} (h : RegsWf s) (i : RegNum) {j : Nat} (hj : j < s.params.limbs) (w : Word) :
    RegsWf (writeLimb i j w s) := by
  intro k
  by_cases hk : k = i
  · subst hk
    have := h k
    simp only [writeLimb, getReg_setReg_self, setReg_params, RegWf, List.length_set]
    exact ⟨withLimb_lt hj this.1 w, this.2⟩
  · simpa [writeLimb, hk] using h k

/-- A host write of REG_SIGN keeps the canonical form. -/
theorem writeSigns_regsWf {s : State} (h : RegsWf s) (w : Word) : RegsWf (writeSigns w s) := by
  intro k
  simpa using h k

end Sys2Proof.Machine
end

