-- ==== Sys2Proof/Laws/Ops.lean ====
section
/-! SUPPORT. What the shared operations can do, once each: a completion, its two ends, the checks of the command
rules, a host access, a turn. Proofs cite these and do not unfold the operations. -/

namespace Sys2Proof.Machine

/-! Completion (10_state.md R41). -/

/-- The rule of each command as `Exec` of 10_state.md R41. -/
def ruleOf (p : Params) : Instr → Latch → Result
  | .nop, _ => .ok [] none
  | .ldi rd imm, _ => okOne rd imm.toNat
  | .mov rd _, L => okOne rd L.a
  | .mod rd _ _, L => modRule rd L
  | .gcd rd _ _, L => gcdRule rd L
  | .coprime rd _ _, L => coprimeRule rd L
  | .eea rd _ _ rc, L => eeaRule p rd rc L
  | .modmul rd _ _ _, L => modmulRule rd L
  | .modpow rd _ _ _, L => modpowRule rd L
  | .modinv rd _ _, L => modinvRule rd L
  | .transform rd _ _ _, L => transformRule rd L
  | .crtdec rd _ rb, L => crtdecRule p rd rb L

/-- Every arm of `exec` is the completion by its command's rule. -/
theorem exec_eq_complete (i : Instr) (s : State) : exec i s = complete (ruleOf s.params i) s := by
  cases i <;> rfl

theorem complete_busy {s : State} {f : InFlight} (h : s.phase = .busy f) (rule : Latch → Result) :
    complete rule s = .next (finish f (rule f.latch) s) := by
  simp [complete, h]

/-- While Busy every command completes, with its rule's outcome on the latch. -/
theorem exec_busy {s : State} {f : InFlight} (h : s.phase = .busy f) (i : Instr) :
    exec i s = .next (finish f (ruleOf s.params i f.latch) s) := by
  rw [exec_eq_complete, complete_busy h]

/-- What a next state of `exec` can be. -/
theorem exec_next {i : Instr} {s t : State} (h : exec i s = .next t) :
    ∃ f, s.phase = .busy f ∧ t = finish f (ruleOf s.params i f.latch) s := by
  rw [exec_eq_complete] at h
  unfold complete at h
  split at h
  · cases h
  · next f hf => exact ⟨f, hf, by injection h with h; exact h.symm⟩

@[simp] theorem finish_ok (f : InFlight) (ws : List (RegNum × Int)) (p : Option Int) (s : State) :
    finish f (.ok ws p) s = endCommand (commit ws p s) := rfl

@[simp] theorem finish_err (f : InFlight) (code : ErrorCode) (s : State) :
    finish f (.err code) s = endCommand (recordError code (opField f.word) f.seq s) := rfl

/-- Both ends of a command leave the engine Idle. -/
@[simp] theorem finish_phase (f : InFlight) (out : Result) (s : State) : (finish f out s).phase = .idle := by
  cases out <;> rfl

/-- No completion changes the control state (10_state.md R38). -/
theorem finish_sameControl (f : InFlight) (out : Result) (s : State) : SameControl s (finish f out s) := by
  cases out <;> simp [SameControl]

/-- The layout of ERRINFO, field by field (10_state.md R34). -/
theorem errInfoWord_fields (code : BitVec 8) (opcode : BitVec 6) (seq : Word) :
    (errInfoWord code opcode seq).extractLsb' 0 8 = code ∧ (errInfoWord code opcode seq).extractLsb' 8 6 = opcode ∧
      (errInfoWord code opcode seq).extractLsb' 14 2 = 0 ∧
        (errInfoWord code opcode seq).extractLsb' 16 16 = seq.extractLsb' 0 16 := by
  refine ⟨?_, ?_, ?_, ?_⟩ <;> ext k hk <;> interval_cases k <;> simp [errInfoWord, place]

/-- A failed completion is what 60_exceptions.md R183 and R184 say. -/
theorem finish_err_failed {s : State} {f : InFlight} (h : s.phase = .busy f) (code : ErrorCode) :
    CommandFailed (codeOf code) s (finish f (.err code) s) := by
  refine ⟨⟨f, h, ?_, ?_⟩, ?_⟩
  · intro he
    simp [he]
  · intro he
    simpa [he, opField] using errInfoWord_fields (codeOf code) (opField f.word) f.seq
  · simp [SameFlags, SameControl]

/-- A successful completion with one destination is what 10_state.md R33 and R42 say. -/
theorem finish_okOne_commits (f : InFlight) (rd : RegNum) (v : Int) (s : State) :
    CommitsOne rd v s (finish f (okOne rd v) s) := by
  have hg : ∀ r, getReg r (finish f (okOne rd v) s) = getReg r (writeReg rd v s) := fun r => getReg_congr rfl r
  refine ⟨⟨?_, ?_, ?_⟩, ?_, ?_, ?_⟩
  · simp [readReg, hg, writeReg]
  · simp [hg, writeReg, regOf]
  · have hp : (finish f (okOne rd v) s).params = s.params := rfl
    rw [hp, hg]
    simp [writeReg]
  · simp [okOne, commit, endCommand, FlagsOf]
  · intro r hr
    rw [hg, getReg_writeReg_ne (by simpa using hr)]
  · simp [okOne, CommandDone, SameControl]

/-! The checks of the command rules (60_exceptions.md R182). -/

theorem checkUnsigned_pass {vs : List Int} (h : ∀ v ∈ vs, 0 ≤ v) (own : Result) : checkUnsigned vs own = own := by
  unfold checkUnsigned
  rw [if_neg]
  simpa using h

theorem checkUnsigned_fail {vs : List Int} (h : ∃ v ∈ vs, v < 0) (own : Result) :
    checkUnsigned vs own = .err .negOperand := by
  unfold checkUnsigned
  rw [if_pos]
  simpa using h

theorem checkModulus_pass {n : Int} (h : n ≠ 0) (own : Result) : checkModulus n own = own := by
  simp [checkModulus, h]

@[simp] theorem checkModulus_zero (own : Result) : checkModulus 0 own = .err .modZero := rfl

/-! Turns (20_memory.md R70). -/

@[simp] theorem takeTurn_nil {s : State} (h : s.schedule = []) : takeTurn s = (.engine, s) := by
  simp [takeTurn, h]

@[simp] theorem takeTurn_cons {s : State} {turn : Turn} {rest : List Turn} (h : s.schedule = turn :: rest) :
    takeTurn s = (turn, { s with schedule := rest }) := by
  simp [takeTurn, h]

/-- What a turn of the engine can do (10_state.md R41; 60_exceptions.md R197). -/
theorem engineTurn_cases (s : State) :
    (s.phase = .idle ∧ engineTurn s = .next s) ∨
      (∃ f i, s.phase = .busy f ∧ decode f.word = .ok i ∧
        engineTurn s = .next (finish f (ruleOf s.params i f.latch) s)) ∨
      (∃ f e, s.phase = .busy f ∧ decode f.word = .error e ∧ engineTurn s = .next (finish f (.err .illegal) s)) := by
  unfold engineTurn
  cases h : s.phase with
  | idle => exact .inl ⟨rfl, rfl⟩
  | busy f =>
    refine .inr ?_
    cases hd : decode f.word with
    | ok i => exact .inl ⟨f, i, rfl, hd, by simp only [hd]; exact exec_busy h i⟩
    | error e => exact .inr ⟨f, e, rfl, hd, by simp only [hd]; rfl⟩

/-- What a step can do: one of the steps of 20_memory.md R70. -/
theorem step_cases (s : State) :
    (∃ a t, takeTurn s = (.host a, t) ∧ step s = .next (hostAccess a t)) ∨
      (∃ t, takeTurn s = (.powerOn, t) ∧ step s = .next (powerOnReset t)) ∨
      (∃ t, takeTurn s = (.engine, t) ∧ step s = engineTurn t) := by
  unfold step
  rcases h : takeTurn s with ⟨turn, t⟩
  cases turn with
  | host a => exact .inl ⟨a, t, rfl, rfl⟩
  | powerOn => exact .inr (.inl ⟨t, rfl, rfl⟩)
  | engine => exact .inr (.inr ⟨t, rfl, rfl⟩)

/-- Taking a turn changes the schedule alone. -/
theorem takeTurn_state (s : State) : (takeTurn s).2 = { s with schedule := s.schedule.tail } := by
  cases h : s.schedule with
  | nil => rw [takeTurn_nil h, List.tail_nil, ← h]
  | cons turn rest => rw [takeTurn_cons h, List.tail_cons]

/-! Host accesses (20_memory.md R64). -/

theorem hostAccess_read_legal {off : Offset} {size : AccessSize} (h : accessLegal off size = true) (s : State) :
    hostAccess (.read off size) s =
      answerWith (.readData (readTarget (targetAt s.params off.toNat) s).1)
        (readTarget (targetAt s.params off.toNat) s).2 := by
  simp [hostAccess, h]

theorem hostAccess_write_legal {off : Offset} {size : AccessSize} (h : accessLegal off size = true) (w : Word)
    (s : State) :
    hostAccess (.write off size w) s = answerWith .writeDone (writeTarget (targetAt s.params off.toNat) w s) := by
  simp [hostAccess, h]

theorem hostAccess_read_illegal {off : Offset} {size : AccessSize} (h : accessLegal off size = false) (s : State) :
    hostAccess (.read off size) s = answerWith .readError (recordBusError s) := by
  simp [hostAccess, h]

theorem hostAccess_write_illegal {off : Offset} {size : AccessSize} (h : accessLegal off size = false) (w : Word)
    (s : State) : hostAccess (.write off size w) s = answerWith .writeError (recordBusError s) := by
  simp [hostAccess, h]

/-- A CTRL write with SOFT_RESET has no other effect (10_state.md R28). -/
theorem writeCtrl_softReset {w : Word} (h : w.getLsbD 1 = true) (s : State) : writeCtrl w s = softReset s := by
  simp only [writeCtrl, h, if_true]

/-- A CTRL write with ABORT and without SOFT_RESET (10_state.md R28). -/
theorem writeCtrl_abort {w : Word} (h1 : w.getLsbD 1 = false) (h2 : w.getLsbD 2 = true) (s : State) :
    writeCtrl w s = { abortCommand s with irqEn := w.getLsbD 0 } := by
  simp only [writeCtrl, h1, h2, if_true, Bool.false_eq_true, if_false]

/-- A CTRL write of IRQ_EN alone (10_state.md R28). -/
theorem writeCtrl_irqEn {w : Word} (h1 : w.getLsbD 1 = false) (h2 : w.getLsbD 2 = false) (s : State) :
    writeCtrl w s = { s with irqEn := w.getLsbD 0 } := by
  simp only [writeCtrl, h1, h2, Bool.false_eq_true, if_false]

theorem abortCommand_idle {s : State} (h : s.phase = .idle) : abortCommand s = s := by
  simp [abortCommand, h]

/-- An abort is a failed completion with code ABORTED (60_exceptions.md R187). -/
theorem abortCommand_busy {s : State} {f : InFlight} (h : s.phase = .busy f) :
    abortCommand s = finish f (.err .aborted) s := by
  simp [abortCommand, h]

/-- What a read can do: nothing, or use up one draw (20_memory.md R68; 10_state.md R24). -/
theorem readTarget_state (target : Target) (s : State) :
    (readTarget target s).2 = s ∨ (readTarget target s).2 = { s with draws := s.draws + 1 } := by
  cases target <;> simp only [readTarget, readLimb, readSigns, drawWord, true_or]
  · split <;> simp
  · split <;> simp

/-- Past the control registers an offset names a limb inside the operand window and nothing outside it (20_memory.md
R63, R65). -/
theorem targetAt_past_control (p : Params) {off : Nat} (h : 0x0020 ≤ off) :
    targetAt p off =
      if 0x1000 ≤ off ∧ off < 0x1000 + 64 * p.limbs then
        .limb (BitVec.ofNat 4 ((off - 0x1000) / 4 / p.limbs)) ((off - 0x1000) / 4 % p.limbs)
      else .reserved := by
  have hne : ∀ k < 0x0020, off ≠ k := fun k hk he => absurd h (by omega)
  simp [targetAt, hne]

/-- The limbs of all registers, counted through, are below 16·LIMBS. -/
theorem limbIndex_lt (i : RegNum) {limbs j : Nat} (hj : j < limbs) : i.toNat * limbs + j < 16 * limbs :=
  calc i.toNat * limbs + j < (i.toNat + 1) * limbs := by rw [Nat.succ_mul]; omega
    _ ≤ 16 * limbs := Nat.mul_le_mul_right _ i.isLt

/-- The offset of limb j of R[i] names that limb (20_memory.md R63). -/
theorem targetAt_limbOffset {p : Params} (i : RegNum) {j : Nat} (hj : j < p.limbs) :
    targetAt p (limbOffset p i j) = .limb i j := by
  have hlt := limbIndex_lt i hj
  have hwindow : 0x1000 ≤ limbOffset p i j ∧ limbOffset p i j < 0x1000 + 64 * p.limbs := by
    unfold limbOffset; omega
  have hindex : (limbOffset p i j - 0x1000) / 4 = i.toNat * p.limbs + j := by unfold limbOffset; omega
  have hreg : (i.toNat * p.limbs + j) / p.limbs = i.toNat := by
    rw [Nat.add_comm, Nat.add_mul_div_right _ _ (by omega), Nat.div_eq_of_lt hj, Nat.zero_add]
  have hlimb : (i.toNat * p.limbs + j) % p.limbs = j := by
    rw [Nat.add_comm, Nat.add_mul_mod_self_right, Nat.mod_eq_of_lt hj]
  rw [targetAt_past_control p (by omega), if_pos hwindow, hindex, hreg, hlimb, BitVec.ofNat_toNat, BitVec.setWidth_eq]

/-- The operand window lies inside the aperture (20_memory.md R63). -/
theorem limbOffset_lt {p : Params} (hp : p.Valid) (i : RegNum) {j : Nat} (hj : j < p.limbs) :
    limbOffset p i j < 65536 := by
  have hlt := limbIndex_lt i hj
  have := hp.2.1
  unfold limbOffset
  omega

/-- The port offset of limb j of R[i] (20_memory.md R63). -/
theorem limbOffset_toNat {p : Params} (hp : p.Valid) (i : RegNum) {j : Nat} (hj : j < p.limbs) :
    (BitVec.ofNat 16 (0x1000 + 4 * (i.toNat * p.limbs + j)) : Offset).toNat = limbOffset p i j := by
  rw [BitVec.toNat_ofNat]
  exact Nat.mod_eq_of_lt (limbOffset_lt hp i hj)

/-- Every limb is at a legal offset. -/
theorem limbOffset_legal {p : Params} (hp : p.Valid) (i : RegNum) {j : Nat} (hj : j < p.limbs) :
    accessLegal (BitVec.ofNat 16 (0x1000 + 4 * (i.toNat * p.limbs + j))) .b4 = true := by
  simp only [accessLegal, limbOffset_toNat hp i hj]
  simp [limbOffset]

/-- Every command that decodes is well-formed (30_encoding.md R86). -/
theorem decode_wellFormed {w : Word} {i : Instr} (h : decode w = .ok i) : i.wellFormed = true := by
  unfold decode at h
  split at h
  · cases h
  split at h
  · cases h
  split at h
  · cases h
  split at h
  · cases h
  next h1 h2 h3 h4 =>
  unfold instrOf at h
  split at h <;> cases h <;> simp_all [Instr.wellFormed]

end Sys2Proof.Machine
end

