-- ==== Sys2Proof/Laws/PerInstr.lean ====
section
/-! SUPPORT. Statements about every command as syntax, one lemma per constructor. -/

namespace Sys2Proof.Laws.EncodesInRow

/-- The column OP of 30_encoding.md R84. -/
def opcodeOf : Instr → BitVec 6
  | .nop => 0x00
  | .ldi _ _ => 0x01
  | .mov _ _ => 0x02
  | .mod _ _ _ => 0x03
  | .gcd _ _ _ => 0x04
  | .coprime _ _ _ => 0x05
  | .eea _ _ _ _ => 0x06
  | .modmul _ _ _ _ => 0x07
  | .modpow _ _ _ _ => 0x08
  | .modinv _ _ _ => 0x09
  | .transform _ _ _ _ => 0x0A
  | .crtdec _ _ _ => 0x0B

/-- The word of a command carries its opcode and matches its row of 30_encoding.md R84: every must-be-zero bit is 0. -/
def Statement (i : Instr) : Prop :=
  opField (encode i) = opcodeOf i ∧ encode i &&& maskOf (opcodeOf i) = matchOf (opcodeOf i)

/-- The opcode field of a format R word. -/
theorem opField_packR (op : BitVec 6) (rd ra rb rc : RegNum) : opField (packR op rd ra rb rc) = op := by
  ext k hk
  interval_cases k <;> simp [opField, packR, place]

/-! One field under a mask, by its sixteen values. -/

theorem place22_mask (m : Word) (h : m ∈ [0xFC0003FF#32, 0xFC003FFF#32, 0xFC03FFFF#32]) (r : RegNum) :
    place 22 r &&& m = 0 := by
  simp only [List.mem_cons, List.not_mem_nil, or_false] at h
  rcases h with rfl | rfl | rfl <;> revert r <;> decide

theorem place18_mask (m : Word) (h : m ∈ [0xFC0003FF#32, 0xFC003FFF#32, 0xFC03FFFF#32]) (r : RegNum) :
    place 18 r &&& m = 0 := by
  simp only [List.mem_cons, List.not_mem_nil, or_false] at h
  rcases h with rfl | rfl | rfl <;> revert r <;> decide

theorem place14_mask (m : Word) (h : m ∈ [0xFC0003FF#32, 0xFC003FFF#32]) (r : RegNum) : place 14 r &&& m = 0 := by
  simp only [List.mem_cons, List.not_mem_nil, or_false] at h
  rcases h with rfl | rfl <;> revert r <;> decide

theorem place10_mask (r : RegNum) : place 10 r &&& 0xFC0003FF#32 = 0 := by
  revert r; decide

theorem place26_mask (m : Word) (h : m ∈ [0xFC0003FF#32, 0xFC003FFF#32, 0xFC03FFFF#32]) (op : BitVec 6) :
    place 26 op &&& m = place 26 op := by
  simp only [List.mem_cons, List.not_mem_nil, or_false] at h
  rcases h with rfl | rfl | rfl <;> revert op <;> decide

theorem place_zero (lo : Nat) : place lo (0 : RegNum) = 0 := by
  simp [place]

theorem or_and (a b m : Word) : (a ||| b) &&& m = a &&& m ||| b &&& m := by
  ext k hk
  simp [Bool.and_or_distrib_right]

/-- A format R word under a mask that keeps the opcode and the ten low bits. -/
theorem packR_mask4 (op : BitVec 6) (rd ra rb rc : RegNum) :
    packR op rd ra rb rc &&& 0xFC0003FF#32 = place 26 op := by
  simp only [packR, or_and]
  rw [place26_mask _ (by decide), place22_mask _ (by decide), place18_mask _ (by decide), place14_mask _ (by decide),
    place10_mask]
  simp

/-- A format R word with RC = 0 under a mask that also keeps RC. -/
theorem packR_mask3 (op : BitVec 6) (rd ra rb : RegNum) :
    packR op rd ra rb 0 &&& 0xFC003FFF#32 = place 26 op := by
  simp only [packR, or_and, place_zero]
  rw [place26_mask _ (by decide), place22_mask _ (by decide), place18_mask _ (by decide), place14_mask _ (by decide)]
  simp

/-- A format R word with RB = RC = 0 under a mask that also keeps RB and RC. -/
theorem packR_mask2 (op : BitVec 6) (rd ra : RegNum) :
    packR op rd ra 0 0 &&& 0xFC03FFFF#32 = place 26 op := by
  simp only [packR, or_and, place_zero]
  rw [place26_mask _ (by decide), place22_mask _ (by decide), place18_mask _ (by decide)]
  simp

/-- The opcode field of a format I word. -/
theorem opField_packI (op : BitVec 6) (rd : RegNum) (imm : BitVec 16) : opField (packI op rd imm) = op := by
  ext k hk
  interval_cases k <;> simp [opField, packI, place]

/-- A format I word under its mask. -/
theorem packI_mask (op : BitVec 6) (rd : RegNum) (imm : BitVec 16) :
    packI op rd imm &&& 0xFC3F0000#32 = place 26 op := by
  ext k hk
  interval_cases k <;> simp [packI, place]

theorem nop : Statement .nop := ⟨by decide, by decide⟩

theorem ldi (rd : RegNum) (imm : BitVec 16) : Statement (.ldi rd imm) :=
  ⟨opField_packI _ _ _, packI_mask _ _ _⟩

theorem mov (rd ra : RegNum) : Statement (.mov rd ra) := ⟨opField_packR _ _ _ _ _, packR_mask2 _ _ _⟩

theorem mod (rd ra rb : RegNum) : Statement (.mod rd ra rb) := ⟨opField_packR _ _ _ _ _, packR_mask3 _ _ _ _⟩

theorem gcd (rd ra rb : RegNum) : Statement (.gcd rd ra rb) := ⟨opField_packR _ _ _ _ _, packR_mask3 _ _ _ _⟩

theorem coprime (rd ra rb : RegNum) : Statement (.coprime rd ra rb) :=
  ⟨opField_packR _ _ _ _ _, packR_mask3 _ _ _ _⟩

theorem eea (rd ra rb rc : RegNum) : Statement (.eea rd ra rb rc) :=
  ⟨opField_packR _ _ _ _ _, packR_mask4 _ _ _ _ _⟩

theorem modmul (rd ra rb rc : RegNum) : Statement (.modmul rd ra rb rc) :=
  ⟨opField_packR _ _ _ _ _, packR_mask4 _ _ _ _ _⟩

theorem modpow (rd ra rb rc : RegNum) : Statement (.modpow rd ra rb rc) :=
  ⟨opField_packR _ _ _ _ _, packR_mask4 _ _ _ _ _⟩

theorem modinv (rd ra rb : RegNum) : Statement (.modinv rd ra rb) :=
  ⟨opField_packR _ _ _ _ _, packR_mask3 _ _ _ _⟩

theorem transform (rd ra rb rc : RegNum) : Statement (.transform rd ra rb rc) :=
  ⟨opField_packR _ _ _ _ _, packR_mask4 _ _ _ _ _⟩

theorem crtdec (rd ra rb : RegNum) : Statement (.crtdec rd ra rb) :=
  ⟨opField_packR _ _ _ _ _, packR_mask3 _ _ _ _⟩

end Sys2Proof.Laws.EncodesInRow
end

