-- ==== Sys2Proof/Laws/Rules.lean ====
section
/-! SUPPORT. The command rules on integer operands: the functions of Sys2Proof/Machine/Arith.lean at non-negative
integers, the shared preconditions of the cipher commands, and a command in flight run by its rule. -/

namespace Sys2Proof.Machine

/-- `gcd` at non-negative operands (40_number_theory.md R101). -/
theorem euclid_toNat {a b : Int} (ha : 0 ≤ a) (hb : 0 ≤ b) : euclid a.toNat b.toNat = Int.gcd a b := by
  rw [euclid_eq_gcd, Int.gcd]
  congr 1 <;> omega

/-- `modpow` at non-negative operands and a positive modulus (41_modular_arithmetic.md R131). -/
theorem modpow_toNat {a n : Int} (e : Nat) (ha : 0 ≤ a) (hn : 0 < n) :
    ((modpow a.toNat e n.toNat : Nat) : Int) = a ^ e % n := by
  rw [modpow_eq_pow_mod _ _ (by omega)]
  push_cast
  rw [Int.toNat_of_nonneg ha, Int.toNat_of_nonneg hn.le]

theorem checkMessage_range {x n : Nat} (h : n ≤ x) (own : Result) : checkMessage x n own = .err .range := by
  simp [checkMessage, h]

theorem checkMessage_genCoprime {x n : Nat} (h : x < n) (hg : Nat.gcd (Nat.gcd x n) (n / Nat.gcd x n) ≠ 1)
    (own : Result) : checkMessage x n own = .err .genCoprime := by
  have : genCoprime x n = false := by rwa [Bool.eq_false_iff, ne_eq, genCoprime_iff]
  simp [checkMessage, this, not_le.mpr h]

theorem checkMessage_pass {x n : Nat} (h : x < n) (hg : Nat.gcd (Nat.gcd x n) (n / Nat.gcd x n) = 1)
    (own : Result) : checkMessage x n own = own := by
  have : genCoprime x n = true := by rwa [genCoprime_iff]
  simp [checkMessage, this, not_le.mpr h]

/-- A command in flight is well-formed and completes by its rule on the live registers (10_state.md R40, R41). -/
theorem inFlightIs_exec {i : Instr} {s : State} (h : InFlightIs i s) :
    ∃ f, s.phase = .busy f ∧ i.wellFormed = true ∧
      exec i s = .next (finish f (ruleOf s.params i (latchSources i s)) s) := by
  obtain ⟨f, hf, hd, hl⟩ := h
  exact ⟨f, hf, decode_wellFormed hd, by rw [exec_busy hf, hl]⟩

/-- The magnitude of a register of a state in canonical form (00_scope.md R8). -/
theorem readReg_natAbs_lt {s : State} (h : RegsWf s) (i : RegNum) : (readReg i s).natAbs < 2 ^ s.params.opw := by
  have := (h i).1
  unfold readReg regValue
  split <;> simpa using this

/-- The magnitude bound of a register write (10_state.md R22). -/
theorem fits_iff (p : Params) (v : Int) : fits p v = true ↔ v.natAbs < 2 ^ p.opw := by
  simp [fits]

end Sys2Proof.Machine
end

