-- ==== Sys2Proof/Tests/Slice0.lean ====
section
/-! SUPPORT. Own tests: the well-formedness checks, the spec's words (95_test_vectors.md L2.1), at most two vectors per
command (L2.2 to L2.9), bus accesses (L2.10), and for each statement with hypotheses a state that meets them. -/

namespace Sys2Proof.Machine

/-! ## Well-formedness: an ill-formed term for each check (30_encoding.md R86) -/

theorem test_eea_same_destinations_refused : Instr.wellFormed (.eea 3 0 0 3) = false := by decide

theorem test_crtdec_block_past_r15_refused : Instr.wellFormed (.crtdec 1 0 12) = false := by decide

theorem test_crtdec_largest_block_accepted : Instr.wellFormed (.crtdec 15 0 11) = true := by decide

/-! ## Words of 95_test_vectors.md L2.1 -/

theorem test_word_e1 : decode 0x00000000 = .ok (.nop) := by decide
theorem test_word_e3 : decode 0x07C0FFFF = .ok (.ldi 15 65535) := by decide
theorem test_word_e4 : decode 0x04000000 = .ok (asmClr 0) := by decide
theorem test_word_e5 : decode 0x09CC0000 = .ok (.mov 7 3) := by decide
theorem test_word_e6 : decode 0x0D4C4000 = .ok (.mod 5 3 1) := by decide
theorem test_word_e7 : decode 0x10804000 = .ok (.gcd 2 0 1) := by decide
theorem test_word_e8 : decode 0x14804000 = .ok (.coprime 2 0 1) := by decide
theorem test_word_e9 : decode 0x18C05000 = .ok (asmEea 3 4 0 1) := by decide
theorem test_word_e10 : decode 0x1D808400 = .ok (.modmul 6 0 2 1) := by decide
theorem test_word_e11 : decode 0x1D0CC800 = .ok (asmSqr 4 3 2) := by decide
theorem test_word_e12 : decode 0x21448C00 = .ok (.modpow 5 1 2 3) := by decide
theorem test_word_e13 : decode 0x24804000 = .ok (asmInv 2 0 1) := by decide
theorem test_word_e14 : decode 0x28C04800 = .ok (asmEnc 3 0 1 2) := by decide
theorem test_word_e15 : decode 0x2BFFFC00 = .ok (.transform 15 15 15 15) := by decide
theorem test_word_e17 : decode 0x2FC2C000 = .ok (.crtdec 15 0 11) := by decide
theorem test_illegal_word_e18 : decode 0x00000001 = .error .mustBeZero := by decide
theorem test_illegal_word_e19 : decode 0x30000000 = .error .reservedOpcode := by decide
theorem test_illegal_word_e20 : decode 0xFC000000 = .error .reservedOpcode := by decide
theorem test_illegal_word_e21 : decode 0x04810CA1 = .error .mustBeZero := by decide
theorem test_illegal_word_e22 : decode 0x08004000 = .error .mustBeZero := by decide
theorem test_illegal_word_e23 : decode 0x18C00C00 = .error .sameDestinations := by decide
theorem test_illegal_word_e24 : decode 0x2C430000 = .error .blockPastR15 := by decide
theorem test_illegal_word_e25 : decode 0x2C420001 = .error .mustBeZero := by decide
theorem test_illegal_word_e26 : decode 0x24804400 = .error .mustBeZero := by decide
theorem test_illegal_word_e27 : decode 0x10806000 = .error .mustBeZero := by decide
theorem test_illegal_word_e28 : decode 0x21448C01 = .error .mustBeZero := by decide

/-! ## Vectors -/

/-- After power-on reset at OPW = 64: the given registers loaded, then the word issued (10_state.md R39). -/
def issued (w : Word) (vals : List (RegNum × Int)) : State := acceptCommand w (applyWrites vals State.reset)

/-- After the engine's turn: the value of `rd`, the flags Z, ONE, NEG, DONE, and ERRINFO. -/
def observe (rd : RegNum) (s : State) : Option (Int × Bool × Bool × Bool × Bool × Word) :=
  match step s with
  | .next t => some (readReg rd t, t.z, t.one, t.neg, t.done, t.errInfo)
  | .fault _ => none
  | .refused _ => none

/-- 95_test_vectors.md N1v. -/
theorem test_nop : observe 0 (issued 0x00000000 []) =
    some (0, false, false, false, true, 0) := by decide +kernel

/-- 95_test_vectors.md N2v. -/
theorem test_ldi : observe 2 (issued 0x04800CA1 [(2, -367)]) =
    some (3233, false, false, false, true, 0) := by decide +kernel

/-- 95_test_vectors.md N3v. -/
theorem test_ldi_zero_clears_sign : observe 2 (issued 0x04800000 [(2, -367)]) =
    some (0, true, false, false, true, 0) := by decide +kernel

/-- 95_test_vectors.md N5v. -/
theorem test_mov_negative : observe 7 (issued 0x09CC0000 [(3, -367)]) =
    some (-367, false, false, true, true, 0) := by decide +kernel

/-- 95_test_vectors.md M1. -/
theorem test_mod_negative_dividend : observe 5 (issued 0x0D4C4000 [(3, -367), (1, 780)]) =
    some (413, false, false, false, true, 0) := by decide +kernel

/-- 95_test_vectors.md M6. -/
theorem test_mod_wide : observe 5 (issued 0x0D4C4000 [(3, -1), (1, 18446744073709551615)]) =
    some (18446744073709551614, false, false, false, true, 0) := by decide +kernel

/-- 95_test_vectors.md GC9. -/
theorem test_gcd : observe 2 (issued 0x10804000 [(0, 18446744073709551615), (1, 6148914691236517205)]) =
    some (6148914691236517205, false, false, false, true, 0) := by decide +kernel

/-- 95_test_vectors.md GC11. -/
theorem test_gcd_negative : observe 2 (issued 0x10804000 [(0, 6), (1, -4)]) =
    some (0, false, false, false, false, 0x00010402) := by decide +kernel

/-- 95_test_vectors.md GC13. -/
theorem test_coprime : observe 2 (issued 0x14804000 [(0, 6), (1, 20)]) =
    some (0, true, false, false, true, 0) := by decide +kernel

/-- 95_test_vectors.md GC16. -/
theorem test_coprime_zero_zero : observe 2 (issued 0x14804000 [(0, 0), (1, 0)]) =
    some (0, true, false, false, true, 0) := by decide +kernel

/-- 95_test_vectors.md X1. -/
theorem test_eea_s : observe 3 (issued 0x18C05000 [(0, 17), (1, 780)]) =
    some (-367, false, false, true, true, 0) := by decide +kernel

/-- 95_test_vectors.md L2.3 aliasing (EEA R0, R1, R0, R1). -/
theorem test_eea_aliased_t : observe 1 (issued 0x18004400 [(0, 17), (1, 780)]) =
    some (8, false, false, true, true, 0) := by decide +kernel

/-- 95_test_vectors.md M12. -/
theorem test_modmul_unreduced : observe 6 (issued 0x1D808400 [(0, 18446744073709551615), (2, 18446744073709551615), (1, 18446744073709551557)]) =
    some (3364, false, false, false, true, 0) := by decide +kernel

/-- 95_test_vectors.md M17. -/
theorem test_modmul_zero_modulus : observe 6 (issued 0x1D808400 [(0, 5), (2, 5), (1, 0)]) =
    some (0, false, false, false, false, 0x00010703) := by decide +kernel

/-- 95_test_vectors.md P12v. -/
theorem test_modpow_wide : observe 5 (issued 0x21448C00 [(1, 18446744073709551615), (2, 18446744073709551615), (3, 18446744073709551557)]) =
    some (4959809447704153900, false, false, false, true, 0) := by decide +kernel

/-- 95_test_vectors.md L2.5 aliasing (MODPOW R1, R1, R1, R1). -/
theorem test_modpow_aliased : observe 1 (issued 0x20444400 [(1, 3)]) =
    some (0, true, false, false, true, 0) := by decide +kernel

/-- 95_test_vectors.md I6v. -/
theorem test_modinv_unreduced : observe 2 (issued 0x24804000 [(0, 797), (1, 780)]) =
    some (413, false, false, false, true, 0) := by decide +kernel

/-- 95_test_vectors.md I8v. -/
theorem test_modinv_modulus_one : observe 2 (issued 0x24804000 [(0, 5), (1, 1)]) =
    some (0, false, false, false, false, 0x00010908) := by decide +kernel

/-- 95_test_vectors.md T3. -/
theorem test_transform_shared_factor : observe 3 (issued 0x28C04800 [(0, 61), (1, 17), (2, 3233)]) =
    some (610, false, false, false, true, 0) := by decide +kernel

/-- 95_test_vectors.md T14. -/
theorem test_transform_gen_coprime : observe 3 (issued 0x28C04800 [(0, 2), (1, 3), (2, 12)]) =
    some (0, false, false, false, false, 0x00010A06) := by decide +kernel

/-- 95_test_vectors.md L2.8 aliasing (CRTDEC R8, R8, R8). -/
theorem test_crtdec_aliased : observe 8 (issued 0x2E220000 [(8, 61), (9, 53), (10, 53), (11, 49), (12, 38)]) =
    some (2806, false, false, false, true, 0) := by decide +kernel

/-- 95_test_vectors.md C15v. -/
theorem test_crtdec_overflow : observe 1 (issued 0x2C420000 [(0, 3), (8, 2305843009213693951), (9, 2147483647), (10, 5), (11, 7), (12, 2147483649)]) =
    some (0, false, false, false, false, 0x00010B09) := by decide +kernel

/-- 95_test_vectors.md N6v: a host-written negative zero is copied without its sign. -/
theorem test_mov_negative_zero : (getReg 7
    (finish { word := 0x09CC0000, seq := 1, latch := {} }
      (okOne 7 (readReg 3 (hostAccess (.write 0x001C .b4 0x8) State.reset))) State.reset)).sign = false := by decide

/-! ## Bus accesses -/

/-- 95_test_vectors.md B2: CFG at OPW = 64, 2048 and 16384. -/
theorem test_cfg : cfgWord { limbs := 2, base := 0 } = 0x00100002 ∧ cfgWord { limbs := 64, base := 0 } = 0x00100040 ∧
    cfgWord { limbs := 512, base := 0 } = 0x00100200 := by decide

/-- 20_memory.md R63: with OPW = 64, R3 is at 0x1018 and 0x101C; 95_test_vectors.md B4: 0x1080 is past the window. -/
theorem test_window_offsets : targetAt Params.ofVectors 0x1018 = .limb 3 0 ∧
    targetAt Params.ofVectors 0x101C = .limb 3 1 ∧ targetAt Params.ofVectors 0x107C = .limb 15 1 ∧
    targetAt Params.ofVectors 0x1080 = .reserved ∧ targetAt Params.ofVectors 0x0020 = .reserved := by decide

/-- 95_test_vectors.md B7: a misaligned read is a bus error, recorded. -/
theorem test_misaligned_read : (hostAccess (.read 0x0002 .b4) State.reset).answer = some .readError ∧
    (hostAccess (.read 0x0002 .b4) State.reset).faults.busError = true := by decide

/-- 95_test_vectors.md B12: the first command 0x30000000 leaves STATUS 4 and ERRINFO 0x00010C01. -/
theorem test_reserved_opcode : (match step (issued 0x30000000 []) with
    | .next t => some (statusWord t, t.errInfo)
    | .fault _ => none
    | .refused _ => none) = some (0x00000004, 0x00010C01) := by decide

/-- 95_test_vectors.md B15: an aborted MODPOW leaves ERRINFO 0x0001080A. -/
theorem test_abort : (hostAccess (.write 0x0008 .b4 0x4) (issued 0x21404800 [])).errInfo = 0x0001080A := by decide

/-- 95_test_vectors.md B16: a window write while Busy is dropped with WERR. -/
theorem test_window_write_while_busy : (hostAccess (.write 0x1000 .b4 5) (issued 0 [])).werr = true ∧
    (getReg 0 (hostAccess (.write 0x1000 .b4 5) (issued 0 []))).mag = 0 := by decide

/-- 95_test_vectors.md B20: a REG_SIGN write of 0x40 sets SIGN[6] alone and makes every sign valid. -/
theorem test_reg_sign : (getReg 6 (hostAccess (.write 0x001C .b4 0x40) State.reset)).sign = true ∧
    (getReg 5 (hostAccess (.write 0x001C .b4 0x40) State.reset)).sign = false ∧
    allSignsValid (hostAccess (.write 0x001C .b4 0x40) State.reset) = true := by decide

/-- 95_test_vectors.md N7v: MOV of an unwritten register records UnwrittenOperand; a written one does not. -/
theorem test_unwritten_operand : (issued 0x09CC0000 []).faults.unwrittenOperand = true ∧
    (issued 0x09CC0000 [(3, 5)]).faults.unwrittenOperand = false := by decide

/-- A table word put in flight after reset is run by the very next step. -/
theorem test_placed_word_runs : step (State.reset.withFetchWord 32 0x04800CA1) =
    exec (.ldi 2 3233) (State.reset.withFetchWord 32 0x04800CA1) ∧
    decodeTableWord 32 0x04800CA1 = some (.ldi 2 3233) := ⟨rfl, by decide⟩

/-! ## Witnesses: for each statement with hypotheses, states and operands that meet them all -/

/-- The invariant of an issued state, from its parts that evaluation decides. -/
theorem issued_inv {w : Word} {vals : List (RegNum × Int)} (h : RegsWf (issued w vals))
    (hp : (issued w vals).params.Valid) (he : ErrInfoWf (issued w vals))
    (hl : latchOf w (applyWrites vals State.reset) = latchOf w (issued w vals)) : (issued w vals).Inv :=
  ⟨hp, h, he, rfl, rfl, hl, rfl⟩

theorem witness_DecodeOfEncode : Instr.wellFormed (.eea 3 0 1 4) = true ∧ Instr.wellFormed (.crtdec 15 0 11) = true :=
  by decide

theorem witness_EncodeOfDecode : decode 0x2FC2C000 = .ok (.crtdec 15 0 11) :=
  by decide

theorem witness_IllegalWordFailsWithIllegal : decode 0x2C430000 = .error .blockPastR15 ∧ State.reset.phase = .idle ∧
    (∃ f, (issued 0x2C430000 []).phase = .busy f ∧ f.word = 0x2C430000) :=
  ⟨by decide, rfl, _, rfl, rfl⟩

theorem witness_StepRunsDecodedInstruction : ((issued 0 []).schedule = [] ∧ ∃ f, (issued 0 []).phase = .busy f ∧ decode f.word = .ok .nop) ∧
    (∃ s : State, s.schedule = [.engine] ∧ ∃ f, s.phase = .busy f ∧ decode f.word = .ok .nop) ∧
    (∃ s : State, s.schedule = [.host (.read 0 .b4)]) ∧ (∃ s : State, s.schedule = [.engine] ∧ s.phase = .idle) ∧
    (State.reset.schedule = [] ∧ State.reset.phase = .idle) :=
  ⟨⟨rfl, _, rfl, by decide⟩, ⟨{ issued 0 [] with schedule := [.engine] }, rfl, _, rfl, by decide⟩,
    ⟨{ State.reset with schedule := [.host (.read 0 .b4)] }, rfl⟩, ⟨{ State.reset with schedule := [.engine] }, rfl, rfl⟩,
    rfl, rfl⟩

theorem reset_inv : State.reset.Inv :=
  ⟨by decide, reset_regsWf, by decide, trivial⟩

theorem witness_StepKeepsInvariant : State.reset.Inv ∧ (∃ t, step State.reset = .next t) ∧
    (issued 0x10804000 [(0, 12), (1, 18)]).Inv ∧ ∃ t, step (issued 0x10804000 [(0, 12), (1, 18)]) = .next t :=
  ⟨reset_inv, ⟨_, rfl⟩, issued_inv (by decide) (by decide) (by decide) (by decide), _, rfl⟩

theorem witness_PowerOnMeetsInvariant : Params.Valid { limbs := 2, base := 0 } ∧ Params.Valid { limbs := 512, base := 65536 } :=
  by decide

theorem witness_PowerOnResetsARunningBlock : ∃ s : State, s.schedule = [.powerOn, .engine] ∧ ∃ f, s.phase = .busy f :=
  ⟨{ issued 0 [] with schedule := [.powerOn, .engine] }, rfl, _, rfl⟩

theorem witness_IssueThenCompletionRunsTheCommand : Instr.wellFormed (.gcd 2 0 1) = true ∧ ∃ s : State, s.phase = .idle ∧
    s.schedule = .host (.write 0x0014 .b4 (encode (.gcd 2 0 1))) :: .engine :: [] :=
  ⟨rfl, { State.reset with schedule := [.host (.write 0x0014 .b4 (encode (.gcd 2 0 1))), .engine] }, rfl, rfl⟩

theorem witness_CommandCounterCountsIssues : ∀ s ∈ ([{ State.reset with schedule := [.host (.write 0x0014 .b4 0)] },
    { issued 0 [] with schedule := [.host (.write 0x0008 .b4 2)] },
    { issued 0 [] with schedule := [.powerOn] }] : List State),
    ∃ t, step s = .next t ∧ t.cmdSeq ≠ s.cmdSeq :=
  by
  simp only [List.mem_cons, List.not_mem_nil, or_false]
  rintro s (rfl | rfl | rfl) <;> exact ⟨_, rfl, by decide⟩

theorem witness_OperandRegistersChangeOnlyByTheirWriters : ∀ s ∈ ([issued 0x04800CA1 [],
    { issued 0x04800CA1 [] with schedule := [.engine] },
    { State.reset with schedule := [.host (.write 0x1000 .b4 5)] },
    { State.reset with schedule := [.host (.write 0x107C .b4 5)] },
    { State.reset with schedule := [.host (.write 0x001C .b4 1)] },
    { applyWrites [(2, 5)] State.reset with schedule := [.powerOn] }] : List State),
    ∃ t, step s = .next t ∧ t.regs ≠ s.regs :=
  by
  simp only [List.mem_cons, List.not_mem_nil, or_false]
  rintro s (rfl | rfl | rfl | rfl | rfl | rfl) <;> exact ⟨_, rfl, by decide⟩

theorem witness_CompletionIsCommitOrError : ∃ f, (issued 0 []).phase = .busy f :=
  ⟨_, rfl⟩

theorem witness_EveryCommandKeepsItsFrame : (∃ t, exec (.eea 3 0 1 4) (issued 0x18C05000 [(0, 17), (1, 780)]) = .next t) ∧
    ∃ t, exec .nop (issued 0 []) = .next t :=
  ⟨⟨_, rfl⟩, _, rfl⟩

theorem witness_OutcomeDependsOnlyOnTheLatch : (∃ s₁ s₂ t₁ t₂ : State, s₁ ≠ s₂ ∧ s₁.phase = s₂.phase ∧ s₁.params = s₂.params ∧ s₁.done = false ∧
      s₂.done = false ∧ s₁.err = false ∧ s₂.err = false ∧ exec (.gcd 2 0 1) s₁ = .next t₁ ∧
      exec (.gcd 2 0 1) s₂ = .next t₂ ∧ t₁.done = true) ∧
    (∃ s₁ s₂ t₁ t₂ : State, s₁ ≠ s₂ ∧ s₁.phase = s₂.phase ∧ s₁.params = s₂.params ∧ s₁.done = false ∧
      s₂.done = false ∧ s₁.err = false ∧ s₂.err = false ∧ exec (.gcd 2 0 1) s₁ = .next t₁ ∧
      exec (.gcd 2 0 1) s₂ = .next t₂ ∧ t₁.done = false) :=
  ⟨⟨issued 0x10804000 [(0, 12), (1, 18)], { issued 0x10804000 [(0, 12), (1, 18)] with irqEn := true }, _, _, by decide, rfl,
    rfl, rfl, rfl, rfl, rfl, rfl, rfl, by decide⟩,
    ⟨issued 0x10804000 [(0, 12), (1, -1)], { issued 0x10804000 [(0, 12), (1, -1)] with irqEn := true }, _, _, by decide, rfl,
    rfl, rfl, rfl, rfl, rfl, rfl, rfl, by decide⟩⟩

theorem witness_NopSetsDone : InFlightIs .nop (issued 0x00000000 []) :=
  ⟨_, rfl, by decide, by decide⟩

theorem witness_LdiWritesTheImmediate : InFlightIs (.ldi 2 3233) (issued 0x04800CA1 []) :=
  ⟨_, rfl, by decide, by decide⟩

theorem witness_MovCopiesTheSignedValue : InFlightIs (.mov 7 3) (issued 0x09CC0000 [(3, -367)]) :=
  ⟨_, rfl, by decide, by decide⟩

theorem witness_ModReturnsTheResidue : InFlightIs (.mod 5 3 1) (issued 0x0D4C4000 [(3, -367), (1, 1)]) ∧
    0 < readReg 1 (issued 0x0D4C4000 [(3, -367), (1, 1)]) :=
  ⟨⟨_, rfl, by decide, by decide⟩, by decide⟩

theorem witness_GcdWritesTheDivisor : InFlightIs (.gcd 2 0 1) (issued 0x10804000 [(0, 0), (1, 0)]) ∧
    0 ≤ readReg 0 (issued 0x10804000 [(0, 0), (1, 0)]) ∧
    0 ≤ readReg 1 (issued 0x10804000 [(0, 0), (1, 0)]) :=
  ⟨⟨_, rfl, by decide, by decide⟩, by decide, by decide⟩

theorem witness_CoprimeWritesTheBoolean : InFlightIs (.coprime 2 0 1) (issued 0x14804000 [(0, 0), (1, 0)]) ∧
    0 ≤ readReg 0 (issued 0x14804000 [(0, 0), (1, 0)]) ∧
    0 ≤ readReg 1 (issued 0x14804000 [(0, 0), (1, 0)]) :=
  ⟨⟨_, rfl, by decide, by decide⟩, by decide, by decide⟩

theorem witness_GcdLaws : (InFlightIs (.gcd 2 0 1) (issued 0x10804000 [(0, 12), (1, 18)]) ∧
    InFlightIs (.gcd 2 1 0) (issued 0x10840000 [(0, 12), (1, 18)]) ∧
    readReg 0 (issued 0x10840000 [(0, 12), (1, 18)]) = readReg 0 (issued 0x10804000 [(0, 12), (1, 18)]) ∧
    readReg 1 (issued 0x10840000 [(0, 12), (1, 18)]) = readReg 1 (issued 0x10804000 [(0, 12), (1, 18)]) ∧
    0 ≤ readReg 0 (issued 0x10804000 [(0, 12), (1, 18)]) ∧ 0 ≤ readReg 1 (issued 0x10804000 [(0, 12), (1, 18)])) ∧
    InFlightIs (.gcd 2 0 1) (issued 0x10804000 [(0, 12), (1, 0)]) ∧
    0 ≤ readReg 0 (issued 0x10804000 [(0, 12), (1, 0)]) ∧ readReg 1 (issued 0x10804000 [(0, 12), (1, 0)]) = 0 :=
  ⟨⟨⟨_, rfl, by decide, by decide⟩, ⟨_, rfl, by decide, by decide⟩, by decide, by decide, by decide, by decide⟩,
    ⟨_, rfl, by decide, by decide⟩, by decide, by decide⟩

theorem witness_EeaWritesTheRecursionsPair : (issued 0x18C05000 [(0, 17), (1, 780)]).Inv ∧ InFlightIs (.eea 3 0 1 4) (issued 0x18C05000 [(0, 17), (1, 780)]) ∧
    0 ≤ readReg 0 (issued 0x18C05000 [(0, 17), (1, 780)]) ∧
    0 ≤ readReg 1 (issued 0x18C05000 [(0, 17), (1, 780)]) :=
  ⟨issued_inv (by decide) (by decide) (by decide) (by decide), ⟨_, rfl, by decide, by decide⟩, by decide, by decide⟩

theorem witness_EeaMeetsBezoutsIdentity : (issued 0x18C05000 [(0, 17), (1, 780)]).Inv ∧ InFlightIs (.eea 3 0 1 4) (issued 0x18C05000 [(0, 17), (1, 780)]) ∧
    0 ≤ readReg 0 (issued 0x18C05000 [(0, 17), (1, 780)]) ∧
    0 ≤ readReg 1 (issued 0x18C05000 [(0, 17), (1, 780)]) ∧
    ∃ u, exec (.eea 3 0 1 4) (issued 0x18C05000 [(0, 17), (1, 780)]) = .next u :=
  ⟨issued_inv (by decide) (by decide) (by decide) (by decide), ⟨_, rfl, by decide, by decide⟩, by decide, by decide, _, rfl⟩

theorem witness_ModmulWritesTheExactResidue : InFlightIs (.modmul 6 0 2 1) (issued 0x1D808400 [(0, 5), (2, 5), (1, 1)]) ∧
    0 ≤ readReg 0 (issued 0x1D808400 [(0, 5), (2, 5), (1, 1)]) ∧
    0 ≤ readReg 2 (issued 0x1D808400 [(0, 5), (2, 5), (1, 1)]) ∧ 0 < readReg 1 (issued 0x1D808400 [(0, 5), (2, 5), (1, 1)]) :=
  ⟨⟨_, rfl, by decide, by decide⟩, by decide, by decide, by decide⟩

theorem witness_ModpowWritesThePowersResidue : InFlightIs (.modpow 5 1 2 3) (issued 0x21448C00 [(1, 0), (2, 0), (3, 1)]) ∧
    0 ≤ readReg 1 (issued 0x21448C00 [(1, 0), (2, 0), (3, 1)]) ∧
    0 ≤ readReg 2 (issued 0x21448C00 [(1, 0), (2, 0), (3, 1)]) ∧ 0 < readReg 3 (issued 0x21448C00 [(1, 0), (2, 0), (3, 1)]) :=
  ⟨⟨_, rfl, by decide, by decide⟩, by decide, by decide, by decide⟩

theorem witness_ModpowLaws : (InFlightIs (.modpow 5 1 2 3) (issued 0x21448C00 [(1, 0), (2, 0), (3, 2)]) ∧
    0 ≤ readReg 1 (issued 0x21448C00 [(1, 0), (2, 0), (3, 2)]) ∧ readReg 2 (issued 0x21448C00 [(1, 0), (2, 0), (3, 2)]) = 0 ∧
    1 < readReg 3 (issued 0x21448C00 [(1, 0), (2, 0), (3, 2)])) ∧
    InFlightIs (.modpow 5 1 2 3) (issued 0x21448C00 [(1, 0), (2, 0), (3, 1)]) ∧
    0 ≤ readReg 1 (issued 0x21448C00 [(1, 0), (2, 0), (3, 1)]) ∧
    0 ≤ readReg 2 (issued 0x21448C00 [(1, 0), (2, 0), (3, 1)]) ∧ readReg 3 (issued 0x21448C00 [(1, 0), (2, 0), (3, 1)]) = 1 :=
  ⟨⟨⟨_, rfl, by decide, by decide⟩, by decide, by decide, by decide⟩, ⟨_, rfl, by decide, by decide⟩, by decide,
    by decide, by decide⟩

theorem witness_ModinvReturnsTheInverse : InFlightIs (.modinv 2 0 1) (issued 0x24804000 [(0, 1), (1, 2)]) ∧
    0 ≤ readReg 0 (issued 0x24804000 [(0, 1), (1, 2)]) ∧ 2 ≤ readReg 1 (issued 0x24804000 [(0, 1), (1, 2)]) ∧
    Int.gcd (readReg 0 (issued 0x24804000 [(0, 1), (1, 2)])) (readReg 1 (issued 0x24804000 [(0, 1), (1, 2)])) = 1 :=
  ⟨⟨_, rfl, by decide, by decide⟩, by decide, by decide, by decide⟩

theorem witness_ModinvOfNonCoprimeFails : InFlightIs (.modinv 2 0 1) (issued 0x24804000 [(0, 0), (1, 2)]) ∧
    0 ≤ readReg 0 (issued 0x24804000 [(0, 0), (1, 2)]) ∧ 0 < readReg 1 (issued 0x24804000 [(0, 0), (1, 2)]) ∧
    Int.gcd (readReg 0 (issued 0x24804000 [(0, 0), (1, 2)])) (readReg 1 (issued 0x24804000 [(0, 0), (1, 2)])) ≠ 1 :=
  ⟨⟨_, rfl, by decide, by decide⟩, by decide, by decide, by decide⟩

theorem witness_ModinvPostconditionFailsExactlyAtOne : (issued 0x24804000 [(0, 5), (1, 1)]).Inv ∧ (issued 0x24804000 [(0, 5), (1, 1)]).err = false ∧
    InFlightIs (.modinv 2 0 1) (issued 0x24804000 [(0, 5), (1, 1)]) ∧
    (∃ t, exec (.modinv 2 0 1) (issued 0x24804000 [(0, 5), (1, 1)]) = .next t) ∧
    0 ≤ readReg 0 (issued 0x24804000 [(0, 5), (1, 1)]) ∧ 0 < readReg 1 (issued 0x24804000 [(0, 5), (1, 1)]) :=
  ⟨issued_inv (by decide) (by decide) (by decide) (by decide), rfl, ⟨_, rfl, by decide, by decide⟩, ⟨_, rfl⟩, by decide, by decide⟩

theorem witness_ModinvPostconditionPassesAtTwo : (issued 0x24804000 [(0, 5), (1, 2)]).Inv ∧ (issued 0x24804000 [(0, 5), (1, 2)]).err = false ∧
    InFlightIs (.modinv 2 0 1) (issued 0x24804000 [(0, 5), (1, 2)]) ∧
    (∃ t, exec (.modinv 2 0 1) (issued 0x24804000 [(0, 5), (1, 2)]) = .next t) ∧
    0 ≤ readReg 0 (issued 0x24804000 [(0, 5), (1, 2)]) ∧ 0 < readReg 1 (issued 0x24804000 [(0, 5), (1, 2)]) :=
  ⟨issued_inv (by decide) (by decide) (by decide) (by decide), rfl, ⟨_, rfl, by decide, by decide⟩, ⟨_, rfl⟩, by decide, by decide⟩

theorem witness_TransformWritesThePower : InFlightIs (.transform 3 0 1 2) (issued 0x28C04800 [(0, 61), (1, 17), (2, 3233)]) ∧
    0 ≤ readReg 0 (issued 0x28C04800 [(0, 61), (1, 17), (2, 3233)]) ∧
    0 ≤ readReg 1 (issued 0x28C04800 [(0, 61), (1, 17), (2, 3233)]) ∧
    readReg 0 (issued 0x28C04800 [(0, 61), (1, 17), (2, 3233)]) < readReg 2 (issued 0x28C04800 [(0, 61), (1, 17), (2, 3233)]) ∧
    (let g := Int.gcd (readReg 0 (issued 0x28C04800 [(0, 61), (1, 17), (2, 3233)])) (readReg 2 (issued 0x28C04800 [(0, 61), (1, 17), (2, 3233)]));
      Nat.gcd g ((readReg 2 (issued 0x28C04800 [(0, 61), (1, 17), (2, 3233)])).toNat / g) = 1) :=
  ⟨⟨_, rfl, by decide, by decide⟩, by decide, by decide, by decide, by decide⟩

theorem witness_TransformOfZeroModuloOne : InFlightIs (.transform 3 0 1 2) (issued 0x28C04800 [(0, 0), (1, 0), (2, 1)]) ∧
    0 ≤ readReg 0 (issued 0x28C04800 [(0, 0), (1, 0), (2, 1)]) ∧
    0 ≤ readReg 1 (issued 0x28C04800 [(0, 0), (1, 0), (2, 1)]) ∧
    readReg 0 (issued 0x28C04800 [(0, 0), (1, 0), (2, 1)]) < readReg 2 (issued 0x28C04800 [(0, 0), (1, 0), (2, 1)]) ∧
    (let g := Int.gcd (readReg 0 (issued 0x28C04800 [(0, 0), (1, 0), (2, 1)])) (readReg 2 (issued 0x28C04800 [(0, 0), (1, 0), (2, 1)]));
      Nat.gcd g ((readReg 2 (issued 0x28C04800 [(0, 0), (1, 0), (2, 1)])).toNat / g) = 1) :=
  ⟨⟨_, rfl, by decide, by decide⟩, by decide, by decide, by decide, by decide⟩

theorem witness_TransformPreconditionsFail : (InFlightIs (.transform 3 0 1 2) (issued 0x28C04800 [(0, 0), (1, 0), (2, 0)]) ∧
    0 ≤ readReg 0 (issued 0x28C04800 [(0, 0), (1, 0), (2, 0)]) ∧
    0 ≤ readReg 1 (issued 0x28C04800 [(0, 0), (1, 0), (2, 0)]) ∧
    0 ≤ readReg 2 (issued 0x28C04800 [(0, 0), (1, 0), (2, 0)]) ∧
    readReg 2 (issued 0x28C04800 [(0, 0), (1, 0), (2, 0)]) ≤ readReg 0 (issued 0x28C04800 [(0, 0), (1, 0), (2, 0)])) ∧
    InFlightIs (.transform 3 0 1 2) (issued 0x28C04800 [(0, 2), (1, 3), (2, 12)]) ∧
    0 ≤ readReg 0 (issued 0x28C04800 [(0, 2), (1, 3), (2, 12)]) ∧
    0 ≤ readReg 1 (issued 0x28C04800 [(0, 2), (1, 3), (2, 12)]) ∧
    readReg 0 (issued 0x28C04800 [(0, 2), (1, 3), (2, 12)]) < readReg 2 (issued 0x28C04800 [(0, 2), (1, 3), (2, 12)]) ∧
    (let g := Int.gcd (readReg 0 (issued 0x28C04800 [(0, 2), (1, 3), (2, 12)])) (readReg 2 (issued 0x28C04800 [(0, 2), (1, 3), (2, 12)]));
      Nat.gcd g ((readReg 2 (issued 0x28C04800 [(0, 2), (1, 3), (2, 12)])).toNat / g) ≠ 1) :=
  ⟨⟨⟨_, rfl, by decide, by decide⟩, by decide, by decide, by decide, by decide⟩, ⟨_, rfl, by decide, by decide⟩,
    by decide, by decide, by decide, by decide⟩

theorem witness_CrtdecWritesTheCombination : InFlightIs (.crtdec 1 0 8) (issued 0x2C420000 [(0, 2790), (8, 61), (9, 53), (10, 53), (11, 49), (12, 38)]) ∧
    (readReg 0 (issued 0x2C420000 [(0, 2790), (8, 61), (9, 53), (10, 53), (11, 49), (12, 38)]) = 2790 ∧
    readReg 8 (issued 0x2C420000 [(0, 2790), (8, 61), (9, 53), (10, 53), (11, 49), (12, 38)]) = 61 ∧
    readReg 9 (issued 0x2C420000 [(0, 2790), (8, 61), (9, 53), (10, 53), (11, 49), (12, 38)]) = 53 ∧
    readReg 10 (issued 0x2C420000 [(0, 2790), (8, 61), (9, 53), (10, 53), (11, 49), (12, 38)]) = 53 ∧
    readReg 11 (issued 0x2C420000 [(0, 2790), (8, 61), (9, 53), (10, 53), (11, 49), (12, 38)]) = 49 ∧
    readReg 12 (issued 0x2C420000 [(0, 2790), (8, 61), (9, 53), (10, 53), (11, 49), (12, 38)]) = 38) ∧ 2790 < 61 * 53 ∧
    Nat.gcd (Nat.gcd 2790 (61 * 53)) (61 * 53 / Nat.gcd 2790 (61 * 53)) = 1 ∧
    2790 ^ 53 % 61 = 4 ∧ 2790 ^ 49 % 53 = 12 ∧ (38 * (4 - 12) % 61 : Int) = 1 ∧
    (12 + 1 * 53 : Int) < 2 ^ (issued 0x2C420000 [(0, 2790), (8, 61), (9, 53), (10, 53), (11, 49), (12, 38)]).params.opw :=
  ⟨⟨_, rfl, by decide, by decide⟩, by decide, by decide +kernel⟩

theorem witness_CrtdecOverflowFails : InFlightIs (.crtdec 1 0 8) (issued 0x2C420000 [(0, 3), (8, 2305843009213693951), (9, 2147483647), (10, 5), (11, 7), (12, 2147483649)]) ∧
    (readReg 0 (issued 0x2C420000 [(0, 3), (8, 2305843009213693951), (9, 2147483647), (10, 5), (11, 7), (12, 2147483649)]) = 3 ∧
    readReg 8 (issued 0x2C420000 [(0, 3), (8, 2305843009213693951), (9, 2147483647), (10, 5), (11, 7), (12, 2147483649)]) = 2305843009213693951 ∧
    readReg 9 (issued 0x2C420000 [(0, 3), (8, 2305843009213693951), (9, 2147483647), (10, 5), (11, 7), (12, 2147483649)]) = 2147483647 ∧
    readReg 10 (issued 0x2C420000 [(0, 3), (8, 2305843009213693951), (9, 2147483647), (10, 5), (11, 7), (12, 2147483649)]) = 5 ∧
    readReg 11 (issued 0x2C420000 [(0, 3), (8, 2305843009213693951), (9, 2147483647), (10, 5), (11, 7), (12, 2147483649)]) = 7 ∧
    readReg 12 (issued 0x2C420000 [(0, 3), (8, 2305843009213693951), (9, 2147483647), (10, 5), (11, 7), (12, 2147483649)]) = 2147483649) ∧ 3 < 2305843009213693951 * 2147483647 ∧
    Nat.gcd (Nat.gcd 3 (2305843009213693951 * 2147483647)) (2305843009213693951 * 2147483647 / Nat.gcd 3 (2305843009213693951 * 2147483647)) = 1 ∧
    3 ^ 5 % 2305843009213693951 = 243 ∧ 3 ^ 7 % 2147483647 = 2187 ∧
    (2147483649 * (243 - 2187) % 2305843009213693951 : Int) = 2305838834505480295 ∧
    2 ^ (issued 0x2C420000 [(0, 3), (8, 2305843009213693951), (9, 2147483647), (10, 5), (11, 7), (12, 2147483649)]).params.opw ≤
      (2187 + 2305838834505480295 * 2147483647 : Int) :=
  ⟨⟨_, rfl, by decide, by decide⟩, by decide, by decide +kernel⟩

theorem witness_CrtdecPreconditionsFail_smallPrime : InFlightIs (.crtdec 1 0 8) (issued 0x2C420000 [(0, 9), (8, 2), (9, 2), (10, 1), (11, 1), (12, 1)]) ∧
    (readReg 0 (issued 0x2C420000 [(0, 9), (8, 2), (9, 2), (10, 1), (11, 1), (12, 1)]) = 9 ∧
    readReg 8 (issued 0x2C420000 [(0, 9), (8, 2), (9, 2), (10, 1), (11, 1), (12, 1)]) = 2 ∧
    readReg 9 (issued 0x2C420000 [(0, 9), (8, 2), (9, 2), (10, 1), (11, 1), (12, 1)]) = 2 ∧
    readReg 10 (issued 0x2C420000 [(0, 9), (8, 2), (9, 2), (10, 1), (11, 1), (12, 1)]) = 1 ∧
    readReg 11 (issued 0x2C420000 [(0, 9), (8, 2), (9, 2), (10, 1), (11, 1), (12, 1)]) = 1 ∧
    readReg 12 (issued 0x2C420000 [(0, 9), (8, 2), (9, 2), (10, 1), (11, 1), (12, 1)]) = 1) :=
  ⟨⟨_, rfl, by decide, by decide⟩, by decide⟩

theorem witness_CrtdecPreconditionsFail_range : InFlightIs (.crtdec 1 0 8) (issued 0x2C420000 [(0, 9), (8, 3), (9, 3), (10, 1), (11, 1), (12, 1)]) ∧
    (readReg 0 (issued 0x2C420000 [(0, 9), (8, 3), (9, 3), (10, 1), (11, 1), (12, 1)]) = 9 ∧
    readReg 8 (issued 0x2C420000 [(0, 9), (8, 3), (9, 3), (10, 1), (11, 1), (12, 1)]) = 3 ∧
    readReg 9 (issued 0x2C420000 [(0, 9), (8, 3), (9, 3), (10, 1), (11, 1), (12, 1)]) = 3 ∧
    readReg 10 (issued 0x2C420000 [(0, 9), (8, 3), (9, 3), (10, 1), (11, 1), (12, 1)]) = 1 ∧
    readReg 11 (issued 0x2C420000 [(0, 9), (8, 3), (9, 3), (10, 1), (11, 1), (12, 1)]) = 1 ∧
    readReg 12 (issued 0x2C420000 [(0, 9), (8, 3), (9, 3), (10, 1), (11, 1), (12, 1)]) = 1) ∧ 2 < 3 ∧ 3 * 3 ≤ 9 :=
  ⟨⟨_, rfl, by decide, by decide⟩, by decide, by decide⟩

theorem witness_CrtdecPreconditionsFail_genCoprime : InFlightIs (.crtdec 1 0 8) (issued 0x2C420000 [(0, 3), (8, 3), (9, 3), (10, 1), (11, 1), (12, 1)]) ∧
    (readReg 0 (issued 0x2C420000 [(0, 3), (8, 3), (9, 3), (10, 1), (11, 1), (12, 1)]) = 3 ∧
    readReg 8 (issued 0x2C420000 [(0, 3), (8, 3), (9, 3), (10, 1), (11, 1), (12, 1)]) = 3 ∧
    readReg 9 (issued 0x2C420000 [(0, 3), (8, 3), (9, 3), (10, 1), (11, 1), (12, 1)]) = 3 ∧
    readReg 10 (issued 0x2C420000 [(0, 3), (8, 3), (9, 3), (10, 1), (11, 1), (12, 1)]) = 1 ∧
    readReg 11 (issued 0x2C420000 [(0, 3), (8, 3), (9, 3), (10, 1), (11, 1), (12, 1)]) = 1 ∧
    readReg 12 (issued 0x2C420000 [(0, 3), (8, 3), (9, 3), (10, 1), (11, 1), (12, 1)]) = 1) ∧ 3 < 3 * 3 ∧
    Nat.gcd (Nat.gcd 3 (3 * 3)) (3 * 3 / Nat.gcd 3 (3 * 3)) ≠ 1 :=
  ⟨⟨_, rfl, by decide, by decide⟩, by decide, by decide⟩

theorem witness_NegativeOperandFails_mod : InFlightIs (.mod 5 3 1) (issued 0x0D4C4000 [(3, -7), (1, -1)]) ∧
    readReg 1 (issued 0x0D4C4000 [(3, -7), (1, -1)]) < 0 :=
  ⟨⟨_, rfl, by decide, by decide⟩, by decide⟩

theorem witness_NegativeOperandFails_gcd : InFlightIs (.gcd 2 0 1) (issued 0x10804000 [(0, 6), (1, -1)]) ∧
    readReg 1 (issued 0x10804000 [(0, 6), (1, -1)]) < 0 :=
  ⟨⟨_, rfl, by decide, by decide⟩, by decide⟩

theorem witness_NegativeOperandFails_coprime : InFlightIs (.coprime 2 0 1) (issued 0x14804000 [(0, -1), (1, 5)]) ∧
    readReg 0 (issued 0x14804000 [(0, -1), (1, 5)]) < 0 :=
  ⟨⟨_, rfl, by decide, by decide⟩, by decide⟩

theorem witness_NegativeOperandFails_eea : InFlightIs (.eea 3 0 1 4) (issued 0x18C05000 [(0, -1), (1, 5)]) ∧
    readReg 0 (issued 0x18C05000 [(0, -1), (1, 5)]) < 0 :=
  ⟨⟨_, rfl, by decide, by decide⟩, by decide⟩

theorem witness_NegativeOperandFails_modmul : InFlightIs (.modmul 6 0 2 1) (issued 0x1D808400 [(0, 2), (2, 3), (1, -1)]) ∧
    readReg 1 (issued 0x1D808400 [(0, 2), (2, 3), (1, -1)]) < 0 :=
  ⟨⟨_, rfl, by decide, by decide⟩, by decide⟩

theorem witness_NegativeOperandFails_modpow : InFlightIs (.modpow 5 1 2 3) (issued 0x21448C00 [(1, 2), (2, -1), (3, 5)]) ∧
    readReg 2 (issued 0x21448C00 [(1, 2), (2, -1), (3, 5)]) < 0 :=
  ⟨⟨_, rfl, by decide, by decide⟩, by decide⟩

theorem witness_NegativeOperandFails_modinv : InFlightIs (.modinv 2 0 1) (issued 0x24804000 [(0, -1), (1, 0)]) ∧
    readReg 0 (issued 0x24804000 [(0, -1), (1, 0)]) < 0 :=
  ⟨⟨_, rfl, by decide, by decide⟩, by decide⟩

theorem witness_NegativeOperandFails_transform : InFlightIs (.transform 3 0 1 2) (issued 0x28C04800 [(0, -1), (1, 3), (2, 5)]) ∧
    readReg 0 (issued 0x28C04800 [(0, -1), (1, 3), (2, 5)]) < 0 :=
  ⟨⟨_, rfl, by decide, by decide⟩, by decide⟩

theorem witness_NegativeOperandFails_crtdec : InFlightIs (.crtdec 1 0 8) (issued 0x2C420000 [(0, 5), (8, 61), (9, 53), (10, 53), (11, 49), (12, -1)]) ∧
    readReg 12 (issued 0x2C420000 [(0, 5), (8, 61), (9, 53), (10, 53), (11, 49), (12, -1)]) < 0 :=
  ⟨⟨_, rfl, by decide, by decide⟩, by decide⟩

theorem witness_ZeroModulusFails_mod : InFlightIs (.mod 5 3 1) (issued 0x0D4C4000 [(3, -7), (1, 0)]) ∧
    readReg 1 (issued 0x0D4C4000 [(3, -7), (1, 0)]) = 0 :=
  ⟨⟨_, rfl, by decide, by decide⟩, by decide⟩

theorem witness_ZeroModulusFails_modmul : InFlightIs (.modmul 6 0 2 1) (issued 0x1D808400 [(0, 0), (2, 3), (1, 0)]) ∧
    0 ≤ readReg 0 (issued 0x1D808400 [(0, 0), (2, 3), (1, 0)]) ∧
    0 ≤ readReg 2 (issued 0x1D808400 [(0, 0), (2, 3), (1, 0)]) ∧
    readReg 1 (issued 0x1D808400 [(0, 0), (2, 3), (1, 0)]) = 0 :=
  ⟨⟨_, rfl, by decide, by decide⟩, by decide, by decide, by decide⟩

theorem witness_ZeroModulusFails_modpow : InFlightIs (.modpow 5 1 2 3) (issued 0x21448C00 [(1, 2), (2, 0), (3, 0)]) ∧
    0 ≤ readReg 1 (issued 0x21448C00 [(1, 2), (2, 0), (3, 0)]) ∧
    0 ≤ readReg 2 (issued 0x21448C00 [(1, 2), (2, 0), (3, 0)]) ∧
    readReg 3 (issued 0x21448C00 [(1, 2), (2, 0), (3, 0)]) = 0 :=
  ⟨⟨_, rfl, by decide, by decide⟩, by decide, by decide, by decide⟩

theorem witness_ZeroModulusFails_modinv : InFlightIs (.modinv 2 0 1) (issued 0x24804000 [(0, 0), (1, 0)]) ∧
    0 ≤ readReg 0 (issued 0x24804000 [(0, 0), (1, 0)]) ∧
    readReg 1 (issued 0x24804000 [(0, 0), (1, 0)]) = 0 :=
  ⟨⟨_, rfl, by decide, by decide⟩, by decide, by decide⟩

theorem witness_BezoutCoefficientsAreBounded : ((issued 0x18C05000 [(0, 17), (1, 780)]).Inv ∧ InFlightIs (.eea 3 0 1 4) (issued 0x18C05000 [(0, 17), (1, 780)]) ∧
    0 ≤ readReg 0 (issued 0x18C05000 [(0, 17), (1, 780)]) ∧
    0 ≤ readReg 1 (issued 0x18C05000 [(0, 17), (1, 780)])) ∧
    ((issued 0x18C05000 [(0, 0), (1, 0)]).Inv ∧ InFlightIs (.eea 3 0 1 4) (issued 0x18C05000 [(0, 0), (1, 0)]) ∧
    0 ≤ readReg 0 (issued 0x18C05000 [(0, 0), (1, 0)]) ∧
    0 ≤ readReg 1 (issued 0x18C05000 [(0, 0), (1, 0)])) :=
  ⟨⟨issued_inv (by decide) (by decide) (by decide) (by decide), ⟨_, rfl, by decide, by decide⟩, by decide, by decide⟩,
    issued_inv (by decide) (by decide) (by decide) (by decide), ⟨_, rfl, by decide, by decide⟩, by decide, by decide⟩

/-- The key of 95_test_vectors.md W1 to W6. -/
theorem witness_TransformRoundTrip : ∃ s₁ s₂ t₁ : State,
    (Nat.Prime 61 ∧ Nat.Prime 53 ∧ 61 ≠ 53 ∧ 17 * 413 % Nat.lcm (61 - 1) (53 - 1) = 1 ∧ 65 < 61 * 53) ∧
    (InFlightIs (.transform 3 0 1 2) s₁ ∧ readReg 0 s₁ = 65 ∧ readReg 1 s₁ = 17 ∧
      readReg 2 s₁ = (61 * 53 : Nat)) ∧
    (exec (.transform 3 0 1 2) s₁ = .next t₁ ∧ readReg 0 s₂ = readReg 3 t₁) ∧
    InFlightIs (.transform 3 0 1 2) s₂ ∧ readReg 1 s₂ = 413 ∧ readReg 2 s₂ = (61 * 53 : Nat) :=
  ⟨issued 0x28C04800 [(0, 65), (1, 17), (2, 3233)], issued 0x28C04800 [(0, 2790), (1, 413), (2, 3233)], _,
    ⟨by norm_num, by norm_num, by decide, by decide, by decide⟩, ⟨⟨_, rfl, by decide, by decide⟩, by decide,
    by decide, by decide⟩, ⟨rfl, by decide +kernel⟩, ⟨_, rfl, by decide, by decide⟩, by decide, by decide⟩

/-- The key of 95_test_vectors.md W6. -/
theorem witness_CrtdecEqualsTransform : ∃ s₁ s₂ : State,
    (Nat.Prime 61 ∧ Nat.Prime 53 ∧ 61 ≠ 53 ∧ 2 < 61 ∧ 2 < 53) ∧
    (17 * 413 % Nat.lcm (61 - 1) (53 - 1) = 1 ∧ 38 < 61 ∧ 53 * 38 % 61 = 1 ∧ 2790 < 61 * 53) ∧
    61 * 53 < 2 ^ s₁.params.opw ∧
    (InFlightIs (.crtdec 1 0 8) s₁ ∧ readReg 0 s₁ = 2790 ∧ readReg 8 s₁ = 61 ∧ readReg (8 + 1) s₁ = 53 ∧
      readReg (8 + 2) s₁ = (413 % (61 - 1) : Nat) ∧ readReg (8 + 3) s₁ = (413 % (53 - 1) : Nat) ∧
      readReg (8 + 4) s₁ = 38) ∧
    InFlightIs (.transform 3 0 1 2) s₂ ∧ readReg 0 s₂ = 2790 ∧ readReg 1 s₂ = 413 ∧
      readReg 2 s₂ = (61 * 53 : Nat) :=
  ⟨issued 0x2C420000 [(0, 2790), (8, 61), (9, 53), (10, 53), (11, 49), (12, 38)],
    issued 0x28C04800 [(0, 2790), (1, 413), (2, 3233)], ⟨by norm_num, by norm_num, by decide, by decide, by decide⟩,
    by decide, by decide +kernel, ⟨⟨_, rfl, by decide, by decide⟩, by decide⟩, ⟨_, rfl, by decide, by decide⟩,
    by decide, by decide, by decide⟩

theorem witness_CmdWriteWhileIdleIssues : State.reset.phase = .idle :=
  rfl

theorem witness_IssueRecordsUnwrittenSources : State.reset.phase = .idle ∧ decode 0x09CC0000 = .ok (.mov 7 3) ∧ 3 ∈ sources (.mov 7 3) ∧
    (getReg 3 State.reset).validSign = false :=
  ⟨rfl, by decide, by decide, by decide⟩

theorem witness_CmdWriteWhileBusyIsDropped : ∃ f, (issued 0 []).phase = .busy f :=
  ⟨_, rfl⟩

theorem witness_OperandWritesWhileBusyAreDropped : (∃ f, (issued 0 []).phase = .busy f) ∧ (issued 0 []).params.Valid ∧ 1 < (issued 0 []).params.limbs ∧
    State.reset.phase = .idle ∧ State.reset.params.Valid ∧ 1 < State.reset.params.limbs ∧
    (getReg 15 State.reset).validLimbs.length = State.reset.params.limbs :=
  ⟨⟨_, rfl⟩, by decide, by decide, rfl, by decide, by decide, by decide⟩

theorem witness_ReadOnlyRegistersIgnoreWrites :
    (0x0018 : Offset) ∈ ([0x0000, 0x0004, 0x0010, 0x0018] : List Offset) :=
  by decide

theorem witness_ReservedOffsetsReadZeroAndIgnoreWrites :
    ∀ off ∈ ([0x0020, 0x0FFC, 0x1080, 0xFFFC] : List Offset), off.toNat % 4 = 0 ∧
    ((0x0020 ≤ off.toNat ∧ off.toNat < 0x1000) ∨ 0x1000 + 64 * State.reset.params.limbs ≤ off.toNat) :=
  by
  simp only [List.mem_cons, List.not_mem_nil, or_false]
  rintro off (rfl | rfl | rfl | rfl) <;> decide

theorem witness_IllegalAccessesChangeNothing : (AccessSize.b1 ≠ .b4) ∧ (0x0002 : Offset).toNat % 4 ≠ 0 :=
  by decide

theorem witness_ReadsHaveNoSideEffect : (0xFFFC : Offset).toNat % 4 = 0 :=
  by decide

theorem witness_SoftResetKeepsTheOperandRegisters : (0x7 : Word).getLsbD 1 = true :=
  by decide

theorem witness_AbortEndsTheCommand : (0x5 : Word).getLsbD 1 = false ∧ (0x5 : Word).getLsbD 2 = true ∧ (∃ f, (issued 0 []).phase = .busy f) ∧
    State.reset.phase = .idle ∧ (0x1 : Word).getLsbD 1 = false ∧ (0x1 : Word).getLsbD 2 = false :=
  ⟨by decide, by decide, ⟨_, rfl⟩, rfl, by decide, by decide⟩

theorem witness_WindowReadsWhatWasWritten : ((applyWrites [(15, 5)] State.reset).params.Valid ∧ 1 < (applyWrites [(15, 5)] State.reset).params.limbs ∧
      (getReg 15 (applyWrites [(15, 5)] State.reset)).validLimbs[1]? = some true) ∧
    ((issued 0 [(15, 5)]).params.Valid ∧ (∃ f, (issued 0 [(15, 5)]).phase = .busy f) ∧
      (getReg 15 (issued 0 [(15, 5)])).validLimbs[1]? = some true) ∧
    (State.reset.Inv ∧ State.reset.phase = .idle) ∧
    ∃ s : State, s.Inv ∧ s.phase = .idle ∧ 1 < s.params.limbs ∧ (getReg 3 s).validLimbs[1]? = some true ∧
      ((3, 1) : RegNum × Nat) ≠ (3, 0) :=
  ⟨by decide, ⟨by decide, ⟨_, rfl⟩, by decide⟩, ⟨reset_inv, rfl⟩, applyWrites [(3, 5)] State.reset,
    ⟨by decide, by decide, by decide, trivial⟩, rfl, by decide, by decide, by decide⟩

theorem witness_WholeRegisterWriteLoadsTheValue : State.reset.Inv ∧ State.reset.phase = .idle ∧
    (-(2 ^ 64 - 1) : Int).natAbs < 2 ^ State.reset.params.opw ∧
    (0x40 : Word).getLsbD (6 : RegNum).toNat = decide ((-(2 ^ 64 - 1) : Int) < 0) :=
  ⟨reset_inv, rfl, by decide, by decide⟩

theorem witness_RegSignReadsTheSigns : (getReg 3 (issued 0 [(3, -1)])).validSign = true :=
  by decide

theorem witness_UnwrittenLimbReadsADraw : State.reset.params.Valid ∧ 1 < State.reset.params.limbs ∧
    (getReg 15 State.reset).validLimbs[1]? = some false :=
  by decide

end Sys2Proof.Machine
end

/-! # The steps of the block

What a host access can leave, what a step can do, and what of the state each keeps (20_memory.md R64, R68, R70). -/

namespace Sys2Proof.Machine

/-! ## Host accesses at the control offsets (10_state.md R26) -/

theorem hostAccess_write_ctrl (w : Word) (s : State) :
    hostAccess (.write 0x0008 .b4 w) s = answerWith .writeDone (writeCtrl w s) := rfl

theorem hostAccess_write_status (w : Word) (s : State) :
    hostAccess (.write 0x000C .b4 w) s = answerWith .writeDone (writeStatus w s) := rfl

theorem hostAccess_write_cmd (w : Word) (s : State) :
    hostAccess (.write 0x0014 .b4 w) s = answerWith .writeDone (writeCmd w s) := rfl

theorem hostAccess_write_regSign (w : Word) (s : State) :
    hostAccess (.write 0x001C .b4 w) s = answerWith .writeDone (unlessBusy (writeSigns w) s) := rfl

/-- A write of limb j of R[i] (20_memory.md R63; 10_state.md R43). -/
theorem hostAccess_write_limb {s : State} (hp : s.params.Valid) (i : RegNum) {j : Nat} (hj : j < s.params.limbs)
    (w : Word) :
    hostAccess (.write (BitVec.ofNat 16 (0x1000 + 4 * (i.toNat * s.params.limbs + j))) .b4 w) s =
      answerWith .writeDone (unlessBusy (writeLimb i j w) s) := by
  rw [hostAccess_write_legal (limbOffset_legal hp i hj), limbOffset_toNat hp i hj, targetAt_limbOffset i hj]
  rfl

/-- A read of limb j of R[i] (20_memory.md R63). -/
theorem hostAccess_read_limb {s : State} (hp : s.params.Valid) (i : RegNum) {j : Nat} (hj : j < s.params.limbs) :
    hostAccess (.read (BitVec.ofNat 16 (0x1000 + 4 * (i.toNat * s.params.limbs + j))) .b4) s =
      answerWith (.readData (readLimb i j s).1) (readLimb i j s).2 := by
  rw [hostAccess_read_legal (limbOffset_legal hp i hj), limbOffset_toNat hp i hj, targetAt_limbOffset i hj]
  rfl

theorem isBusy_idle {s : State} (h : s.phase = .idle) : isBusy s = false := by
  simp [isBusy, h]

theorem isBusy_busy {s : State} {f : InFlight} (h : s.phase = .busy f) : isBusy s = true := by
  simp [isBusy, h]

theorem writeCmd_idle {s : State} (h : s.phase = .idle) (w : Word) : writeCmd w s = acceptCommand w s := by
  simp [writeCmd, isBusy_idle h]

theorem writeCmd_busy {s : State} {f : InFlight} (h : s.phase = .busy f) (w : Word) :
    writeCmd w s = { s with ovr := true } := by
  simp [writeCmd, isBusy_busy h]

theorem unlessBusy_idle {s : State} (h : s.phase = .idle) (put : State → State) : unlessBusy put s = put s := by
  simp [unlessBusy, isBusy_idle h]

theorem unlessBusy_busy {s : State} {f : InFlight} (h : s.phase = .busy f) (put : State → State) :
    unlessBusy put s = { s with werr := true } := by
  simp [unlessBusy, isBusy_busy h]

/-! ## What a host access can leave -/

/-- `WriteEffect w s target t`: a legal write of `w` at `target` in state `s` can leave `t`, one constructor for each
thing that such a write does. -/
inductive WriteEffect (w : Word) (s : State) : Target → State → Prop where
  | ignored (target : Target) : WriteEffect w s target s
  | softReset (hreset : w.getLsbD 1 = true) : WriteEffect w s .ctrl (softReset s)
  | irqEn (hreset : w.getLsbD 1 = false) : WriteEffect w s .ctrl { s with irqEn := w.getLsbD 0 }
  | abort (f : InFlight) (hbusy : s.phase = .busy f) (hreset : w.getLsbD 1 = false) :
      WriteEffect w s .ctrl { finish f (.err .aborted) s with irqEn := w.getLsbD 0 }
  | status : WriteEffect w s .status (writeStatus w s)
  | overrun (f : InFlight) (hbusy : s.phase = .busy f) : WriteEffect w s .cmd { s with ovr := true }
  | issue (hidle : s.phase = .idle) : WriteEffect w s .cmd (acceptCommand w s)
  | dropped (target : Target) (f : InFlight) (hbusy : s.phase = .busy f) :
      WriteEffect w s target { s with werr := true }
  | signs (hidle : s.phase = .idle) : WriteEffect w s .regSign (writeSigns w s)
  | limb (i : RegNum) (j : Nat) (hidle : s.phase = .idle) : WriteEffect w s (.limb i j) (writeLimb i j w s)

theorem writeCtrl_effect (w : Word) (s : State) : WriteEffect w s .ctrl (writeCtrl w s) := by
  cases h1 : w.getLsbD 1 with
  | true => exact writeCtrl_softReset h1 s ▸ .softReset h1
  | false =>
    cases h2 : w.getLsbD 2 with
    | false => exact writeCtrl_irqEn h1 h2 s ▸ .irqEn h1
    | true =>
      rw [writeCtrl_abort h1 h2]
      cases hs : s.phase with
      | idle => rw [abortCommand_idle hs]; exact .irqEn h1
      | busy f => rw [abortCommand_busy hs]; exact .abort f hs h1

theorem writeCmd_effect (w : Word) (s : State) : WriteEffect w s .cmd (writeCmd w s) := by
  cases hs : s.phase with
  | idle => exact writeCmd_idle hs w ▸ .issue hs
  | busy f => exact writeCmd_busy hs w ▸ .overrun f hs

/-- A write to the operand registers is dropped while Busy and takes effect while Idle (10_state.md R43). -/
theorem unlessBusy_effect {w : Word} {s : State} {target : Target} {put : State → State}
    (hput : s.phase = .idle → WriteEffect w s target (put s)) : WriteEffect w s target (unlessBusy put s) := by
  cases hs : s.phase with
  | idle => exact unlessBusy_idle hs put ▸ hput hs
  | busy f => exact unlessBusy_busy hs put ▸ .dropped target f hs

theorem writeTarget_effect (target : Target) (w : Word) (s : State) :
    WriteEffect w s target (writeTarget target w s) := by
  cases target with
  | id => exact .ignored _
  | cfg => exact .ignored _
  | ctrl => exact writeCtrl_effect w s
  | status => exact .status
  | errInfo => exact .ignored _
  | cmd => exact writeCmd_effect w s
  | cmdSeq => exact .ignored _
  | regSign => exact unlessBusy_effect .signs
  | limb i j => exact unlessBusy_effect (.limb i j)
  | reserved => exact .ignored _

theorem WriteEffect.params_eq {w : Word} {s t : State} {target : Target} (h : WriteEffect w s target t) :
    t.params = s.params := by
  cases h <;> rfl

theorem WriteEffect.schedule_eq {w : Word} {s t : State} {target : Target} (h : WriteEffect w s target t) :
    t.schedule = s.schedule := by
  cases h <;> rfl

/-- An access either leaves the block as it is, but for the answer and the model's own records, or it is a legal write
(20_memory.md R64, R68). -/
theorem hostAccess_cases (a : Access) (s : State) :
    (∃ draws faults answer, hostAccess a s = { s with draws := draws, faults := faults, answer := answer }) ∨
      ∃ off w target t, a = .write off .b4 w ∧ off.toNat % 4 = 0 ∧ targetAt s.params off.toNat = target ∧
        WriteEffect w s target t ∧ hostAccess a s = answerWith .writeDone t := by
  cases a with
  | read off size =>
    left
    cases hl : accessLegal off size with
    | false => exact ⟨_, _, _, hostAccess_read_illegal hl s⟩
    | true =>
      rw [hostAccess_read_legal hl]
      rcases readTarget_state (targetAt s.params off.toNat) s with h | h <;> rw [h]
      · exact ⟨_, _, _, rfl⟩
      · exact ⟨_, _, _, rfl⟩
  | write off size w =>
    cases hl : accessLegal off size with
    | false => exact .inl ⟨_, _, _, hostAccess_write_illegal hl w s⟩
    | true =>
      obtain ⟨hsize, halign⟩ : size = .b4 ∧ off.toNat % 4 = 0 := by simpa [accessLegal] using hl
      subst hsize
      exact .inr ⟨off, w, _, _, rfl, halign, rfl, writeTarget_effect _ w s, hostAccess_write_legal hl w s⟩

theorem hostAccess_params (a : Access) (s : State) : (hostAccess a s).params = s.params := by
  rcases hostAccess_cases a s with ⟨draws, faults, answer, h⟩ | ⟨off, w, target, t, -, -, -, he, h⟩ <;> rw [h]
  exact he.params_eq

theorem hostAccess_schedule (a : Access) (s : State) : (hostAccess a s).schedule = s.schedule := by
  rcases hostAccess_cases a s with ⟨draws, faults, answer, h⟩ | ⟨off, w, target, t, -, -, -, he, h⟩ <;> rw [h]
  exact he.schedule_eq

/-! ## What a step can do -/

theorem step_of_nil {s : State} (h : s.schedule = []) : step s = engineTurn s := by
  simp [step, h]

theorem step_of_host {s : State} {a : Access} {rest : List Turn} (h : s.schedule = .host a :: rest) :
    step s = .next (hostAccess a { s with schedule := rest }) := by
  simp [step, takeTurn_cons h]

theorem step_of_powerOn {s : State} {rest : List Turn} (h : s.schedule = .powerOn :: rest) :
    step s = .next (powerOnReset { s with schedule := rest }) := by
  simp [step, takeTurn_cons h]

theorem step_of_engine {s : State} {rest : List Turn} (h : s.schedule = .engine :: rest) :
    step s = engineTurn { s with schedule := rest } := by
  simp [step, takeTurn_cons h]

theorem engineTurn_idle {s : State} (h : s.phase = .idle) : engineTurn s = .next s := by
  simp [engineTurn, h]

/-- The engine's turn runs the decoded command (10_state.md R41). -/
theorem engineTurn_legal {s : State} {f : InFlight} {i : Instr} (h : s.phase = .busy f) (hd : decode f.word = .ok i) :
    engineTurn s = exec i s := by
  simp [engineTurn, h, hd]

/-- Settles O6, from the equation of `step` at each head of the schedule. -/
theorem stepRunsDecodedInstruction : Obligations.StepRunsDecodedInstruction := by
  unfold Obligations.StepRunsDecodedInstruction
  refine ⟨?_, ?_, ?_, ?_, ?_⟩
  · intro s f i hs hf hd
    exact (step_of_nil hs).trans (engineTurn_legal hf hd)
  · intro s rest f i hs hf hd
    exact (step_of_engine hs).trans (engineTurn_legal hf hd)
  · intro s rest a hs
    exact step_of_host hs
  · intro s rest hs hi
    exact (step_of_engine hs).trans (engineTurn_idle hi)
  · intro s hs hi
    exact (step_of_nil hs).trans (engineTurn_idle hi)

/-- What stands before a step to `t`: the turn it takes, and what that turn leaves. -/
theorem step_next_cases {s t : State} (h : step s = .next t) :
    (∃ a rest, s.schedule = .host a :: rest ∧ t = hostAccess a { s with schedule := rest }) ∨
      (∃ rest, s.schedule = .powerOn :: rest ∧ t = powerOnReset { s with schedule := rest }) ∨
      ((s.schedule = [] ∨ ∃ rest, s.schedule = .engine :: rest) ∧
        engineTurn { s with schedule := s.schedule.tail } = .next t) := by
  cases hs : s.schedule with
  | nil =>
    refine .inr (.inr ⟨.inl rfl, ?_⟩)
    rw [← h, step_of_nil hs, List.tail_nil, ← hs]
  | cons turn rest =>
    cases turn with
    | host a =>
      rw [step_of_host hs] at h
      injection h with h
      exact .inl ⟨a, rest, rfl, h.symm⟩
    | powerOn =>
      rw [step_of_powerOn hs] at h
      injection h with h
      exact .inr (.inl ⟨rest, rfl, h.symm⟩)
    | engine =>
      refine .inr (.inr ⟨.inr ⟨rest, rfl⟩, ?_⟩)
      rw [← h, step_of_engine hs, List.tail_cons]

/-- A turn of the engine leaves it Idle, by nothing or by the end of the command in flight (10_state.md R41). -/
theorem engineTurn_next (s : State) :
    ∃ t, engineTurn s = .next t ∧ t.phase = .idle ∧ (t = s ∨ ∃ f out, s.phase = .busy f ∧ t = finish f out s) := by
  rcases engineTurn_cases s with ⟨hi, he⟩ | ⟨f, i, hf, -, he⟩ | ⟨f, e, hf, -, he⟩
  · exact ⟨s, he, hi, .inl rfl⟩
  · exact ⟨_, he, finish_phase _ _ _, .inr ⟨f, _, hf, rfl⟩⟩
  · exact ⟨_, he, finish_phase _ _ _, .inr ⟨f, _, hf, rfl⟩⟩

theorem engineTurn_next_cases {s t : State} (h : engineTurn s = .next t) :
    t = s ∨ ∃ f out, s.phase = .busy f ∧ t = finish f out s := by
  obtain ⟨u, hu, -, hcases⟩ := engineTurn_next s
  obtain rfl : u = t := by simpa [hu] using h
  exact hcases

/-! ## The registers and the command counter -/

theorem targetAt_eq_ctrl {p : Params} {off : Nat} (h : targetAt p off = .ctrl) : off = 0x0008 := by
  unfold targetAt at h
  split_ifs at h
  assumption

theorem targetAt_eq_cmd {p : Params} {off : Nat} (h : targetAt p off = .cmd) : off = 0x0014 := by
  unfold targetAt at h
  split_ifs at h
  assumption

theorem targetAt_eq_regSign {p : Params} {off : Nat} (h : targetAt p off = .regSign) : off = 0x001C := by
  unfold targetAt at h
  split_ifs at h
  assumption

/-- The offset of a limb lies in the operand window, and the limb in its register (20_memory.md R63). -/
theorem targetAt_eq_limb {p : Params} {off : Nat} {i : RegNum} {j : Nat} (h : targetAt p off = .limb i j) :
    0x1000 ≤ off ∧ off < 0x1000 + 64 * p.limbs ∧ j < p.limbs := by
  unfold targetAt at h
  split_ifs at h with _ _ _ _ _ _ _ _ hwindow
  obtain ⟨hlo, hhi⟩ := hwindow
  injection h with _ hj
  exact ⟨hlo, hhi, hj ▸ Nat.mod_lt _ (by omega)⟩

/-- A write that changes CMDSEQ is an issue or a soft reset (10_state.md R31). -/
theorem WriteEffect.cmdSeq_changed {w : Word} {s t : State} {target : Target} (h : WriteEffect w s target t)
    (hne : t.cmdSeq ≠ s.cmdSeq) :
    (target = .cmd ∧ s.phase = .idle ∧ t.cmdSeq = s.cmdSeq + 1 ∧ t.cmdLast = w) ∨
      (target = .ctrl ∧ w.getLsbD 1 = true ∧ t.cmdSeq = 0) := by
  cases h with
  | issue hidle => exact .inl ⟨rfl, hidle, rfl, rfl⟩
  | softReset hreset => exact .inr ⟨rfl, hreset, rfl⟩
  | _ => exact absurd rfl hne

/-- A write that changes the operand registers goes to REG_SIGN or a limb of an Idle engine (10_state.md R43). -/
theorem WriteEffect.regs_changed {w : Word} {s t : State} {target : Target} (h : WriteEffect w s target t)
    (hne : t.regs ≠ s.regs) : s.phase = .idle ∧ (target = .regSign ∨ ∃ i j, target = .limb i j) := by
  cases h with
  | signs hidle => exact ⟨hidle, .inl rfl⟩
  | limb i j hidle => exact ⟨hidle, .inr ⟨i, j, rfl⟩⟩
  | _ => exact absurd rfl hne

theorem finish_cmdSeq (f : InFlight) (out : Result) (s : State) : (finish f out s).cmdSeq = s.cmdSeq := by
  obtain ⟨-, -, -, -, -, hseq, -⟩ := finish_sameControl f out s
  exact hseq

/-- Settles O14: only an issue and the two resets write CMDSEQ. -/
theorem commandCounterCountsIssues : Obligations.CommandCounterCountsIssues := by
  unfold Obligations.CommandCounterCountsIssues
  intro s t hstep hne
  rcases step_next_cases hstep with ⟨a, rest, hs, rfl⟩ | ⟨rest, hs, rfl⟩ | ⟨-, he⟩
  · rcases hostAccess_cases a { s with schedule := rest } with
      ⟨draws, faults, answer, h⟩ | ⟨off, w, target, t, rfl, -, htarget, heff, h⟩ <;> rw [h] at hne ⊢
    · exact absurd rfl hne
    · rcases heff.cmdSeq_changed hne with ⟨rfl, hidle, hseq, hlast⟩ | ⟨rfl, hreset, hseq⟩
      · obtain rfl : off = 0x0014 := BitVec.eq_of_toNat_eq (targetAt_eq_cmd htarget)
        exact .inl ⟨w, rest, hs, hidle, hseq, hlast⟩
      · obtain rfl : off = 0x0008 := BitVec.eq_of_toNat_eq (targetAt_eq_ctrl htarget)
        exact .inr (.inl ⟨w, rest, hs, hreset, hseq⟩)
  · exact .inr (.inr ⟨rest, hs, rfl⟩)
  · rcases engineTurn_next_cases he with rfl | ⟨f, out, -, rfl⟩
    · exact absurd rfl hne
    · exact absurd (finish_cmdSeq f out _) hne

/-- Settles O15: outside a completion and a power-on reset only the writes of `WriteEffect.regs_changed` reach them. -/
theorem operandRegistersChangeOnlyByTheirWriters : Obligations.OperandRegistersChangeOnlyByTheirWriters := by
  unfold Obligations.OperandRegistersChangeOnlyByTheirWriters
  intro s t hstep hne
  rcases step_next_cases hstep with ⟨a, rest, hs, rfl⟩ | ⟨rest, hs, -⟩ | ⟨hturn, he⟩
  · rcases hostAccess_cases a { s with schedule := rest } with
      ⟨draws, faults, answer, h⟩ | ⟨off, w, target, t, rfl, halign, htarget, heff, h⟩ <;> rw [h] at hne
    · exact absurd rfl hne
    · obtain ⟨hidle, rfl | ⟨i, j, rfl⟩⟩ := heff.regs_changed hne
      · exact .inr (.inl ⟨hidle, off, w, rest, hs, halign,
          .inl (BitVec.eq_of_toNat_eq (targetAt_eq_regSign htarget))⟩)
      · obtain ⟨hlo, hhi, -⟩ := targetAt_eq_limb htarget
        exact .inr (.inl ⟨hidle, off, w, rest, hs, halign, .inr ⟨hlo, hhi⟩⟩)
  · exact .inr (.inr ⟨rest, hs⟩)
  · rcases engineTurn_next_cases he with rfl | ⟨f, out, hf, -⟩
    · exact absurd rfl hne
    · exact .inl ⟨f, hf, hturn⟩

/-! ## The engine becomes Idle -/

/-- Every step has a next state and uses up the turn it takes. -/
theorem step_schedule (s : State) : ∃ t, step s = .next t ∧ t.schedule = s.schedule.tail := by
  rcases step_cases s with ⟨a, u, hu, h⟩ | ⟨u, hu, h⟩ | ⟨u, hu, h⟩
  all_goals
    obtain rfl : { s with schedule := s.schedule.tail } = u := by rw [← takeTurn_state, hu]
  · exact ⟨_, h, hostAccess_schedule _ _⟩
  · exact ⟨_, h, powerOnReset_schedule _⟩
  · obtain ⟨t, ht, -, rfl | ⟨f, out, -, rfl⟩⟩ := engineTurn_next { s with schedule := s.schedule.tail }
    · exact ⟨_, h.trans ht, rfl⟩
    · obtain ⟨-, -, -, -, -, -, -, -, -, hsched⟩ := finish_sameControl f out { s with schedule := s.schedule.tail }
      exact ⟨_, h.trans ht, hsched⟩

theorem run_succ {s t : State} (h : step s = .next t) (k : Nat) :
    Host.Core.run core (k + 1) s = Host.Core.run core k t := by
  simp [Host.Core.run, core, h]

/-- Settles O12, by induction on the schedule: once it is empty the next step is the engine's. -/
theorem engineBecomesIdle : Obligations.EngineBecomesIdle := by
  unfold Obligations.EngineBecomesIdle
  intro s
  induction hs : s.schedule generalizing s with
  | nil =>
    obtain ⟨t, ht, hidle, -⟩ := engineTurn_next s
    exact ⟨1, le_rfl, t, run_succ ((step_of_nil hs).trans ht) 0, hidle⟩
  | cons turn rest ih =>
    obtain ⟨t, ht, hsched⟩ := step_schedule s
    rw [hs, List.tail_cons] at hsched
    obtain ⟨k, hk, u, hu, hidle⟩ := ih t hsched
    exact ⟨k + 1, Nat.succ_le_succ hk, u, (run_succ ht k).trans hu, hidle⟩

end Sys2Proof.Machine

/-! # Completions and the invariant

What the rule of a command can answer, what its completion leaves of the state (10_state.md R38, R41, R42), and that
every step keeps `State.Inv`. -/

namespace Sys2Proof.Machine

/-! ## The checks of the rules, as case splits (60_exceptions.md R182) -/

theorem checkUnsigned_of {P : Result → Prop} {vs : List Int} {own : Result} (hneg : P (.err .negOperand))
    (hown : (∀ v ∈ vs, 0 ≤ v) → P own) : P (checkUnsigned vs own) := by
  by_cases h : ∃ v ∈ vs, v < 0
  · rwa [checkUnsigned_fail h]
  · push Not at h
    rw [checkUnsigned_pass h]
    exact hown h

theorem checkModulus_of {P : Result → Prop} {n : Int} {own : Result} (hzero : P (.err .modZero))
    (hown : n ≠ 0 → P own) : P (checkModulus n own) := by
  by_cases h : n = 0
  · rwa [h, checkModulus_zero]
  · rw [checkModulus_pass h]
    exact hown h

theorem checkMessage_of {P : Result → Prop} {x n : Nat} {own : Result} (hrange : P (.err .range))
    (hgen : P (.err .genCoprime)) (hown : x < n → P own) : P (checkMessage x n own) := by
  by_cases h : n ≤ x
  · rwa [checkMessage_range h]
  · by_cases hg : Nat.gcd (Nat.gcd x n) (n / Nat.gcd x n) = 1
    · rw [checkMessage_pass (by omega) hg]
      exact hown (by omega)
    · rwa [checkMessage_genCoprime (by omega) hg]

/-! ## What a rule can answer -/

/-- An outcome that command `i` can have: writes to exactly its destinations, with a primary result unless it is NOP,
or an error of the engine's own (10_state.md R33; 30_encoding.md R87; 60_exceptions.md R181). -/
def ResultFor (i : Instr) : Result → Prop
  | .ok writes primary => writes.map Prod.fst = destinations i ∧ (primary = none ↔ i = .nop)
  | .err code => code ≠ .aborted

theorem resultFor_okOne {i : Instr} {rd : RegNum} (h : destinations i = [rd]) (v : Int) :
    ResultFor i (okOne rd v) := by
  have hi : i ≠ .nop := by
    rintro rfl
    cases h
  simp [ResultFor, okOne, h, hi]

theorem resultFor_err {i : Instr} {code : ErrorCode} (h : code ≠ .aborted) : ResultFor i (.err code) := h

theorem inverseRule_resultFor {i : Instr} {rd : RegNum} (h : destinations i = [rd]) (e t : Int) :
    ResultFor i (inverseRule rd e t) := by
  unfold inverseRule
  dsimp only
  split_ifs
  · exact resultFor_err (by decide)
  · exact resultFor_err (by decide)
  · exact resultFor_err (by decide)
  · exact resultFor_okOne h _

theorem eeaRule_resultFor (p : Params) (rd ra rb rc : RegNum) (L : Latch) :
    ResultFor (.eea rd ra rb rc) (eeaRule p rd rc L) := by
  unfold eeaRule
  split_ifs with hne
  · exact resultFor_err (by decide)
  · refine checkUnsigned_of (resultFor_err (by decide)) fun _ => ?_
    dsimp only
    split_ifs
    · simp [ResultFor, destinations]
    · exact resultFor_err (by decide)

theorem crtdecRule_resultFor (p : Params) (rd ra rb : RegNum) (L : Latch) :
    ResultFor (.crtdec rd ra rb) (crtdecRule p rd rb L) := by
  unfold crtdecRule
  split_ifs
  · exact resultFor_err (by decide)
  · exact checkUnsigned_of (resultFor_err (by decide)) fun _ => resultFor_err (by decide)
  · refine checkUnsigned_of (resultFor_err (by decide)) fun _ =>
      checkMessage_of (resultFor_err (by decide)) (resultFor_err (by decide)) fun _ => ?_
    dsimp only
    split_ifs
    · exact resultFor_okOne rfl _
    · exact resultFor_err (by decide)

theorem ruleOf_resultFor (p : Params) (i : Instr) (L : Latch) : ResultFor i (ruleOf p i L) := by
  have hneg : ResultFor i (.err .negOperand) := resultFor_err (by decide)
  have hzero : ResultFor i (.err .modZero) := resultFor_err (by decide)
  cases i with
  | nop => exact ⟨rfl, fun _ => rfl, fun _ => rfl⟩
  | ldi rd imm => exact resultFor_okOne rfl _
  | mov rd ra => exact resultFor_okOne rfl _
  | mod rd ra rb => exact checkUnsigned_of hneg fun _ => checkModulus_of hzero fun _ => resultFor_okOne rfl _
  | gcd rd ra rb => exact checkUnsigned_of hneg fun _ => resultFor_okOne rfl _
  | coprime rd ra rb => exact checkUnsigned_of hneg fun _ => resultFor_okOne rfl _
  | eea rd ra rb rc => exact eeaRule_resultFor p rd ra rb rc L
  | modmul rd ra rb rc => exact checkUnsigned_of hneg fun _ => checkModulus_of hzero fun _ => resultFor_okOne rfl _
  | modpow rd ra rb rc => exact checkUnsigned_of hneg fun _ => checkModulus_of hzero fun _ => resultFor_okOne rfl _
  | modinv rd ra rb => exact checkUnsigned_of hneg fun _ => checkModulus_of hzero fun _ => inverseRule_resultFor rfl _ _
  | transform rd ra rb rc =>
    exact checkUnsigned_of hneg fun _ =>
      checkMessage_of (resultFor_err (by decide)) (resultFor_err (by decide)) fun _ => resultFor_okOne rfl _
  | crtdec rd ra rb => exact crtdecRule_resultFor p rd ra rb L

/-! ## What a completion leaves -/

/-- Registers outside the writes of a commit are kept, bookkeeping included (10_state.md R38). -/
theorem getReg_applyWrites_of_notMem {r : RegNum} {ws : List (RegNum × Int)} (h : r ∉ ws.map Prod.fst) (s : State) :
    getReg r (applyWrites ws s) = getReg r s := by
  induction ws generalizing s with
  | nil => rfl
  | cons w ws ih =>
    simp only [List.map_cons, List.mem_cons, not_or] at h
    obtain ⟨hne, hmem⟩ := h
    rw [applyWrites, ih hmem, getReg_writeReg_ne hne]

/-- A register that a commit writes does not depend on the state before it, but for the width. -/
theorem getReg_applyWrites_of_mem {r : RegNum} {ws : List (RegNum × Int)} (h : r ∈ ws.map Prod.fst) {s₁ s₂ : State}
    (hp : s₁.params = s₂.params) : getReg r (applyWrites ws s₁) = getReg r (applyWrites ws s₂) := by
  induction ws generalizing s₁ s₂ with
  | nil => cases h
  | cons w ws ih =>
    simp only [applyWrites]
    by_cases hmem : r ∈ ws.map Prod.fst
    · exact ih hmem hp
    · obtain rfl : r = w.1 := by simpa [hmem] using h
      rw [getReg_applyWrites_of_notMem hmem, getReg_applyWrites_of_notMem hmem]
      simp [writeReg, hp]

theorem getReg_finish_ok (f : InFlight) (ws : List (RegNum × Int)) (p : Option Int) (s : State) (r : RegNum) :
    getReg r (finish f (.ok ws p) s) = getReg r (applyWrites ws s) :=
  getReg_congr (by simp [commit]) r

theorem finish_ok_done (f : InFlight) (ws : List (RegNum × Int)) (p : Option Int) (s : State) :
    CommandDone s (finish f (.ok ws p) s) := by
  refine ⟨?_, ?_, ?_, ?_, finish_sameControl f _ s⟩ <;> simp

/-- The flags a commit leaves do not depend on the state before it, if there is a primary result (10_state.md R33). -/
theorem finish_ok_sameFlags (f : InFlight) (ws : List (RegNum × Int)) {p : Option Int} (hp : p ≠ none)
    (s₁ s₂ : State) : SameFlags (finish f (.ok ws p) s₁) (finish f (.ok ws p) s₂) := by
  obtain ⟨v, rfl⟩ := Option.ne_none_iff_exists'.mp hp
  exact ⟨rfl, rfl, rfl⟩

/-- The codes of 60_exceptions.md R181, those of the engine's own errors below ABORTED. -/
theorem codeOf_bounds (code : ErrorCode) :
    1 ≤ (codeOf code).toNat ∧ (codeOf code).toNat ≤ 0x0A ∧ (code ≠ .aborted → (codeOf code).toNat ≤ 9) := by
  cases code <;> decide

/-- Settles O16: a rule's outcome is a commit or an error other than ABORTED. -/
theorem completionIsCommitOrError : Obligations.CompletionIsCommitOrError := by
  unfold Obligations.CompletionIsCommitOrError
  intro i s f hf
  refine ⟨_, exec_busy hf i, ?_⟩
  have hout := ruleOf_resultFor s.params i f.latch
  cases hr : ruleOf s.params i f.latch with
  | ok ws p => exact .inl (finish_ok_done f ws p s)
  | err code =>
    rw [hr] at hout
    obtain ⟨hlo, -, hhi⟩ := codeOf_bounds code
    exact .inr ⟨codeOf code, hlo, hhi hout, finish_err_failed hf code⟩

/-- Settles O17: a commit writes exactly the destinations, an error nothing. -/
theorem everyCommandKeepsItsFrame : Obligations.EveryCommandKeepsItsFrame := by
  unfold Obligations.EveryCommandKeepsItsFrame
  intro i s t h
  obtain ⟨f, hf, rfl⟩ := exec_next h
  refine ⟨?_, finish_sameControl f _ s, ?_⟩
  · intro r hr
    have hout := ruleOf_resultFor s.params i f.latch
    cases hrule : ruleOf s.params i f.latch with
    | ok ws p =>
      rw [hrule] at hout
      rw [getReg_finish_ok, getReg_applyWrites_of_notMem (hout.1 ▸ hr)]
    | err code => exact getReg_congr rfl r
  · rintro rfl
    exact ⟨rfl, rfl, rfl, rfl⟩

/-- Settles O18: both states end the same command in flight with the same outcome of its rule. -/
theorem outcomeDependsOnlyOnTheLatch : Obligations.OutcomeDependsOnlyOnTheLatch := by
  unfold Obligations.OutcomeDependsOnlyOnTheLatch
  intro i s₁ s₂ t₁ t₂ hphase hparams hd₁ hd₂ h₁ h₂
  obtain ⟨f, hf, rfl⟩ := exec_next h₁
  rw [exec_busy (hphase ▸ hf) i, ← hparams] at h₂
  injection h₂ with h₂
  subst h₂
  have hout := ruleOf_resultFor s₁.params i f.latch
  cases hrule : ruleOf s₁.params i f.latch with
  | ok ws p =>
    rw [hrule] at hout
    obtain ⟨hdest, hprimary⟩ := hout
    refine ⟨by simp, fun _ => ⟨?_, ?_⟩, ?_⟩
    · intro r hr
      rw [getReg_finish_ok, getReg_finish_ok]
      exact getReg_applyWrites_of_mem (hdest ▸ hr) hparams
    · intro hi
      exact finish_ok_sameFlags f ws (mt hprimary.mp hi) s₁ s₂
    · intro he₁ he₂
      simp [he₁, he₂]
  | err code =>
    refine ⟨by simp [hd₁, hd₂], by simp [hd₁], ?_⟩
    intro he₁ he₂
    simp [he₁, he₂]

/-! ## What a rule writes fits its register (10_state.md R22; 00_scope.md R8) -/

/-- Every write of an outcome is below 2^OPW in magnitude. -/
def WritesFit (p : Params) : Result → Prop
  | .ok writes _ => ∀ x ∈ writes, x.2.natAbs < 2 ^ p.opw
  | .err _ => True

/-- The latched operands that a value can be made of without a check of its width are below 2^OPW in magnitude. -/
def LatchFits (p : Params) (L : Latch) : Prop :=
  L.a.natAbs < 2 ^ p.opw ∧ L.b.natAbs < 2 ^ p.opw ∧ L.c.natAbs < 2 ^ p.opw

theorem latchSources_fits {s : State} (h : RegsWf s) (i : Instr) : LatchFits s.params (latchSources i s) := by
  have hreg := readReg_natAbs_lt h
  cases i <;> simp [LatchFits, latchSources, hreg]

theorem writesFit_okOne {p : Params} {v : Int} (rd : RegNum) (h : v.natAbs < 2 ^ p.opw) :
    WritesFit p (okOne rd v) := by
  simpa [WritesFit, okOne] using h

theorem writesFit_err (p : Params) (code : ErrorCode) : WritesFit p (.err code) := trivial

/-- A residue is no larger than its modulus, so it fits where the modulus does. -/
theorem natAbs_modulo_lt {n : Int} {bound : Nat} (x : Int) (hn : 0 < n) (hb : n.natAbs < bound) :
    (modulo x n).natAbs < bound := by
  rw [modulo_eq_emod x hn.le]
  have := Int.emod_nonneg x hn.ne'
  have := Int.emod_lt_of_pos x hn
  omega

theorem modpow_lt {n : Nat} (b e : Nat) (h : 0 < n) : modpow b e n < n := by
  rw [modpow_eq_pow_mod b e h]
  exact Nat.mod_lt _ h

theorem euclid_lt {a b bound : Nat} (ha : a < bound) (hb : b < bound) : euclid a b < bound := by
  rw [euclid_eq_gcd]
  rcases Nat.eq_zero_or_pos a with rfl | hpos
  · rwa [Nat.gcd_zero_left]
  · exact (Nat.gcd_le_left b hpos).trans_lt ha

/-- A 16-bit value fits every register, since OPW is at least 64 (00_scope.md R6). -/
theorem two_pow_16_le {p : Params} (hp : p.Valid) : 2 ^ 16 ≤ 2 ^ p.opw := by
  obtain ⟨hlimbs, -, -⟩ := hp
  exact Nat.pow_le_pow_right (by omega) (by unfold Params.opw; omega)

theorem inverseRule_writesFit {p : Params} {t : Int} (rd : RegNum) (e : Int) (ht : 0 < t)
    (hfit : t.natAbs < 2 ^ p.opw) : WritesFit p (inverseRule rd e t) := by
  unfold inverseRule
  dsimp only
  split_ifs
  · exact writesFit_err _ _
  · exact writesFit_err _ _
  · exact writesFit_err _ _
  · exact writesFit_okOne rd (natAbs_modulo_lt _ ht hfit)

theorem eeaRule_writesFit (p : Params) (rd rc : RegNum) (L : Latch) : WritesFit p (eeaRule p rd rc L) := by
  unfold eeaRule
  split_ifs
  · exact writesFit_err _ _
  · refine checkUnsigned_of (writesFit_err _ _) fun _ => ?_
    dsimp only
    split_ifs with hfits
    · simpa [WritesFit, fits] using hfits
    · exact writesFit_err _ _

theorem crtdecRule_writesFit (p : Params) (rd rb : RegNum) (L : Latch) : WritesFit p (crtdecRule p rd rb L) := by
  unfold crtdecRule
  split_ifs
  · exact writesFit_err _ _
  · exact checkUnsigned_of (writesFit_err _ _) fun _ => writesFit_err _ _
  · refine checkUnsigned_of (writesFit_err _ _) fun _ =>
      checkMessage_of (writesFit_err _ _) (writesFit_err _ _) fun _ => ?_
    dsimp only
    split_ifs with hfits
    · exact writesFit_okOne rd ((fits_iff p _).mp hfits)
    · exact writesFit_err _ _

theorem ruleOf_writesFit {p : Params} {L : Latch} (hp : p.Valid) (hL : LatchFits p L) (i : Instr) :
    WritesFit p (ruleOf p i L) := by
  obtain ⟨ha, hb, hc⟩ := hL
  have hsmall := two_pow_16_le hp
  have hneg : WritesFit p (.err .negOperand) := writesFit_err _ _
  have hzero : WritesFit p (.err .modZero) := writesFit_err _ _
  cases i with
  | nop => simp [ruleOf, WritesFit]
  | ldi rd imm => exact writesFit_okOne rd (by have := imm.isLt; omega)
  | mov rd ra => exact writesFit_okOne rd ha
  | mod rd ra rb =>
    refine checkUnsigned_of hneg fun hpos => checkModulus_of hzero fun hne => writesFit_okOne rd ?_
    have : 0 ≤ L.b := hpos _ (by simp)
    exact natAbs_modulo_lt _ (by omega) hb
  | gcd rd ra rb =>
    exact checkUnsigned_of hneg fun _ => writesFit_okOne rd (euclid_lt (by omega) (by omega))
  | coprime rd ra rb =>
    refine checkUnsigned_of hneg fun _ => writesFit_okOne rd ?_
    split <;> omega
  | eea rd ra rb rc => exact eeaRule_writesFit p rd rc L
  | modmul rd ra rb rc =>
    refine checkUnsigned_of hneg fun hpos => checkModulus_of hzero fun hne => writesFit_okOne rd ?_
    have : 0 ≤ L.c := hpos _ (by simp)
    exact natAbs_modulo_lt _ (by omega) hc
  | modpow rd ra rb rc =>
    refine checkUnsigned_of hneg fun hpos => checkModulus_of hzero fun hne => writesFit_okOne rd ?_
    have : 0 ≤ L.c := hpos _ (by simp)
    have := modpow_lt L.a.toNat L.b.toNat (n := L.c.toNat) (by omega)
    omega
  | modinv rd ra rb =>
    refine checkUnsigned_of hneg fun hpos => checkModulus_of hzero fun hne => ?_
    have : 0 ≤ L.b := hpos _ (by simp)
    exact inverseRule_writesFit rd _ (by omega) hb
  | transform rd ra rb rc =>
    refine checkUnsigned_of hneg fun _ =>
      checkMessage_of (writesFit_err _ _) (writesFit_err _ _) fun hlt => writesFit_okOne rd ?_
    have := modpow_lt L.a.toNat L.b.toNat (n := L.c.toNat) (by omega)
    omega
  | crtdec rd ra rb => exact crtdecRule_writesFit p rd rb L

/-! ## The invariant -/

/-- The latch is taken from the register file alone (10_state.md R40). -/
theorem latchSources_congr {s t : State} (h : t.regs = s.regs) (i : Instr) : latchSources i t = latchSources i s := by
  cases i <;> simp [latchSources, readReg, getReg_congr h]

theorem latchOf_congr {s t : State} (h : t.regs = s.regs) (w : Word) : latchOf w t = latchOf w s := by
  unfold latchOf
  split
  · exact latchSources_congr h _
  · rfl

/-- What `State.Inv` speaks of is the same in `t` as in `s`, except that ERR and DONE may have been cleared. -/
structure InvFieldsKept (s t : State) : Prop where
  params : t.params = s.params
  regs : t.regs = s.regs
  errInfo : t.errInfo = s.errInfo
  phase : t.phase = s.phase
  cmdLast : t.cmdLast = s.cmdLast
  cmdSeq : t.cmdSeq = s.cmdSeq
  err : t.err = true → s.err = true
  done : t.done = true → s.done = true

theorem InvFieldsKept.inv {s t : State} (hk : InvFieldsKept s t) (h : s.Inv) : t.Inv := by
  obtain ⟨hparams, hregs, ⟨hcode, hreserved, herr⟩, hflight⟩ := h
  refine ⟨hk.params ▸ hparams, ?_, ?_, ?_⟩
  · intro i
    rw [hk.params, getReg_congr hk.regs]
    exact hregs i
  · rw [ErrInfoWf, hk.errInfo]
    exact ⟨hcode, hreserved, fun he => herr (hk.err he)⟩
  · unfold InFlightWf at hflight ⊢
    rw [hk.phase]
    split
    · trivial
    · next f hf =>
      rw [hf] at hflight
      obtain ⟨hword, hseq, hlatch, hdone⟩ := hflight
      exact ⟨hword.trans hk.cmdLast.symm, hseq.trans hk.cmdSeq.symm, hlatch.trans (latchOf_congr hk.regs _).symm,
        Bool.eq_false_iff.mpr fun hd => Bool.eq_false_iff.mp hdone (hk.done hd)⟩

/-- While Idle nothing is said of a command in flight. -/
theorem inv_of_idle {s : State} (hi : s.phase = .idle) (hp : s.params.Valid) (hr : RegsWf s) (he : ErrInfoWf s) :
    s.Inv := by
  refine ⟨hp, hr, he, ?_⟩
  simp [InFlightWf, hi]

theorem applyWrites_regsWf {ws : List (RegNum × Int)} {s : State} (h : RegsWf s)
    (hfit : ∀ x ∈ ws, x.2.natAbs < 2 ^ s.params.opw) : RegsWf (applyWrites ws s) := by
  induction ws generalizing s with
  | nil => exact h
  | cons w ws ih =>
    obtain ⟨hw, hws⟩ := List.forall_mem_cons.mp hfit
    exact ih (writeReg_regsWf h w.1 hw) hws

/-- ERRINFO after an error is the first error's, or the new one's (60_exceptions.md R183). -/
theorem recordError_errInfoWf {s : State} (h : ErrInfoWf s) (code : ErrorCode) (opcode : BitVec 6) (seq : Word) :
    ErrInfoWf (recordError code opcode seq s) := by
  obtain ⟨hcode, hreserved, herr⟩ := h
  unfold ErrInfoWf
  rw [recordError_errInfo]
  split
  · next he => exact ⟨hcode, hreserved, fun _ => herr he⟩
  · obtain ⟨hfield, -, hzero, -⟩ := errInfoWord_fields (codeOf code) opcode seq
    obtain ⟨hlo, hhi, -⟩ := codeOf_bounds code
    rw [hfield]
    exact ⟨hhi, hzero, fun _ => hlo⟩

/-- The end of a command keeps the invariant if what it writes fits. -/
theorem finish_inv {s : State} (h : s.Inv) (f : InFlight) {out : Result} (hfit : WritesFit s.params out) :
    (finish f out s).Inv := by
  obtain ⟨hparams, hregs, herr, -⟩ := h
  cases out with
  | ok ws p =>
    refine inv_of_idle rfl (by simpa using hparams) ?_ (by simpa [ErrInfoWf] using herr)
    intro r
    have hp : (finish f (.ok ws p) s).params = (applyWrites ws s).params := by simp
    rw [getReg_finish_ok, hp]
    exact applyWrites_regsWf hregs hfit r
  | err code => exact inv_of_idle rfl hparams hregs (recordError_errInfoWf herr code _ _)

/-- The command in flight latched what the registers still hold, so its result fits (10_state.md R40). -/
theorem ruleOf_writesFit_inFlight {s : State} {f : InFlight} {i : Instr} (h : s.Inv) (hf : s.phase = .busy f)
    (hd : decode f.word = .ok i) : WritesFit s.params (ruleOf s.params i f.latch) := by
  obtain ⟨hparams, hregs, -, hflight⟩ := h
  simp only [InFlightWf, hf] at hflight
  obtain ⟨-, -, hlatch, -⟩ := hflight
  have hsources : f.latch = latchSources i s := by rw [hlatch, latchOf, hd]
  exact hsources ▸ ruleOf_writesFit hparams (latchSources_fits hregs i) i

theorem engineTurn_inv {s t : State} (h : s.Inv) (he : engineTurn s = .next t) : t.Inv := by
  rcases engineTurn_cases s with ⟨-, hs⟩ | ⟨f, i, hf, hd, hs⟩ | ⟨f, e, -, -, hs⟩ <;>
    (rw [hs] at he; injection he with he; subst he)
  · exact h
  · exact finish_inv h f (ruleOf_writesFit_inFlight h hf hd)
  · exact finish_inv h f (writesFit_err _ _)

/-- An issue puts in flight the last accepted command with the live values of its sources (10_state.md R39, R40). -/
theorem acceptCommand_inv {s : State} (h : s.Inv) (w : Word) : (acceptCommand w s).Inv := by
  obtain ⟨hparams, hregs, herr, -⟩ := h
  exact ⟨hparams, hregs, herr, rfl, rfl, (latchOf_congr (acceptCommand_regs w s) w).symm, rfl⟩

/-- A cleared ERRINFO is in form, with ERR = 0. -/
theorem errInfoWf_of_clear {s : State} (hinfo : s.errInfo = 0) (herr : s.err = false) : ErrInfoWf s := by
  simp [ErrInfoWf, hinfo, herr]

theorem softReset_inv {s : State} (h : s.Inv) : (softReset s).Inv := by
  obtain ⟨hparams, hregs, -, -⟩ := h
  exact inv_of_idle rfl hparams hregs (errInfoWf_of_clear rfl rfl)

theorem powerOnReset_inv {s : State} (h : s.params.Valid) : (powerOnReset s).Inv :=
  inv_of_idle rfl h (powerOn_regsWf s.params) (errInfoWf_of_clear rfl rfl)

theorem writeStatus_kept (w : Word) (s : State) : InvFieldsKept s (writeStatus w s) := by
  refine ⟨rfl, rfl, rfl, rfl, rfl, rfl, ?_, ?_⟩
  · exact fun h => (Bool.and_eq_true_iff.mp h).1
  · exact fun h => (Bool.and_eq_true_iff.mp h).1

/-- A legal write keeps the invariant; a limb that it writes lies in its register. -/
theorem WriteEffect.inv {w : Word} {s t : State} {target : Target} (he : WriteEffect w s target t) (h : s.Inv)
    (hlimb : ∀ i j, target = .limb i j → j < s.params.limbs) : t.Inv := by
  cases he with
  | ignored => exact h
  | softReset => exact softReset_inv h
  | irqEn => exact InvFieldsKept.inv ⟨rfl, rfl, rfl, rfl, rfl, rfl, id, id⟩ h
  | abort f hbusy =>
    have hended : (finish f (.err .aborted) s).Inv := finish_inv h f (writesFit_err _ _)
    exact InvFieldsKept.inv ⟨rfl, rfl, rfl, rfl, rfl, rfl, id, id⟩ hended
  | status => exact (writeStatus_kept w s).inv h
  | overrun => exact InvFieldsKept.inv ⟨rfl, rfl, rfl, rfl, rfl, rfl, id, id⟩ h
  | issue => exact acceptCommand_inv h w
  | dropped => exact InvFieldsKept.inv ⟨rfl, rfl, rfl, rfl, rfl, rfl, id, id⟩ h
  | signs hidle =>
    obtain ⟨hparams, hregs, herr, -⟩ := h
    exact inv_of_idle hidle hparams (writeSigns_regsWf hregs w) herr
  | limb i j hidle =>
    obtain ⟨hparams, hregs, herr, -⟩ := h
    exact inv_of_idle hidle hparams (writeLimb_regsWf hregs i (hlimb i j rfl) w) herr

theorem hostAccess_inv {s : State} (h : s.Inv) (a : Access) : (hostAccess a s).Inv := by
  rcases hostAccess_cases a s with
    ⟨draws, faults, answer, hs⟩ | ⟨off, w, target, t, -, -, htarget, heff, hs⟩ <;> rw [hs]
  · exact InvFieldsKept.inv ⟨rfl, rfl, rfl, rfl, rfl, rfl, id, id⟩ h
  · have ht : t.Inv := heff.inv h fun i j hij => (targetAt_eq_limb (htarget.trans hij)).2.2
    exact InvFieldsKept.inv ⟨rfl, rfl, rfl, rfl, rfl, rfl, id, id⟩ ht

theorem engineTurn_params {s t : State} (h : engineTurn s = .next t) : t.params = s.params := by
  rcases engineTurn_next_cases h with rfl | ⟨f, out, -, rfl⟩
  · rfl
  · exact (finish_sameControl f out s).1

/-- Taking a turn off the schedule keeps the invariant. -/
theorem inv_withSchedule {s : State} (h : s.Inv) (turns : List Turn) : State.Inv { s with schedule := turns } :=
  InvFieldsKept.inv ⟨rfl, rfl, rfl, rfl, rfl, rfl, id, id⟩ h

/-- Settles O8: each of the three kinds of step keeps the invariant and the parameters. -/
theorem stepKeepsInvariant : Obligations.StepKeepsInvariant := by
  unfold Obligations.StepKeepsInvariant
  intro s t h hstep
  rcases step_next_cases hstep with ⟨a, rest, -, rfl⟩ | ⟨rest, -, rfl⟩ | ⟨-, he⟩
  · exact ⟨hostAccess_inv (inv_withSchedule h rest) a, hostAccess_params _ _⟩
  · exact ⟨powerOnReset_inv h.1, rfl⟩
  · have hparams := engineTurn_params he
    exact ⟨engineTurn_inv (inv_withSchedule h _) he, hparams⟩

end Sys2Proof.Machine

/-! # Issue and completion

The decoder undoes the encoder (30_encoding.md R81 to R91), and an issued command runs on the live registers (10_state.md
R39 to R41). -/

namespace Sys2Proof.Machine

/-! ## The fields of an encoded word (30_encoding.md R82, R83) -/

theorem rdField_packR (op : BitVec 6) (rd ra rb rc : RegNum) : rdField (packR op rd ra rb rc) = rd := by
  ext k hk
  interval_cases k <;> simp [rdField, packR, place]

theorem raField_packR (op : BitVec 6) (rd ra rb rc : RegNum) : raField (packR op rd ra rb rc) = ra := by
  ext k hk
  interval_cases k <;> simp [raField, packR, place]

theorem rbField_packR (op : BitVec 6) (rd ra rb rc : RegNum) : rbField (packR op rd ra rb rc) = rb := by
  ext k hk
  interval_cases k <;> simp [rbField, packR, place]

theorem rcField_packR (op : BitVec 6) (rd ra rb rc : RegNum) : rcField (packR op rd ra rb rc) = rc := by
  ext k hk
  interval_cases k <;> simp [rcField, packR, place]

theorem rdField_packI (op : BitVec 6) (rd : RegNum) (imm : BitVec 16) : rdField (packI op rd imm) = rd := by
  ext k hk
  interval_cases k <;> simp [rdField, packI, place]

theorem immField_packI (op : BitVec 6) (rd : RegNum) (imm : BitVec 16) : immField (packI op rd imm) = imm := by
  ext k hk
  interval_cases k <;> simp [immField, packI, place]

/-! ## Decoding an encoded word -/

/-- Every command's word is in its row of the opcode map (30_encoding.md R84). -/
theorem encode_inRow (i : Instr) : Laws.EncodesInRow.Statement i := by
  cases i with
  | nop => exact Laws.EncodesInRow.nop
  | ldi rd imm => exact Laws.EncodesInRow.ldi rd imm
  | mov rd ra => exact Laws.EncodesInRow.mov rd ra
  | mod rd ra rb => exact Laws.EncodesInRow.mod rd ra rb
  | gcd rd ra rb => exact Laws.EncodesInRow.gcd rd ra rb
  | coprime rd ra rb => exact Laws.EncodesInRow.coprime rd ra rb
  | eea rd ra rb rc => exact Laws.EncodesInRow.eea rd ra rb rc
  | modmul rd ra rb rc => exact Laws.EncodesInRow.modmul rd ra rb rc
  | modpow rd ra rb rc => exact Laws.EncodesInRow.modpow rd ra rb rc
  | modinv rd ra rb => exact Laws.EncodesInRow.modinv rd ra rb
  | transform rd ra rb rc => exact Laws.EncodesInRow.transform rd ra rb rc
  | crtdec rd ra rb => exact Laws.EncodesInRow.crtdec rd ra rb

/-- `MNEMONIC[op]` on the fields of a command's word gives the command back (30_encoding.md R90). -/
theorem instrOf_encode (i : Instr) : instrOf (encode i) = .ok i := by
  obtain ⟨hop, -⟩ := encode_inRow i
  unfold instrOf
  rw [hop]
  cases i with
  | nop => rfl
  | ldi rd imm =>
    simp [Laws.EncodesInRow.opcodeOf, encode, rdField_packI, immField_packI]
  | _ =>
    simp [Laws.EncodesInRow.opcodeOf, encode, rdField_packR, raField_packR, rbField_packR, rcField_packR]

theorem opcodeOf_le (i : Instr) : (Laws.EncodesInRow.opcodeOf i).toNat ≤ 0x0B := by
  cases i <;> simp [Laws.EncodesInRow.opcodeOf]

/-- The two constraints of 30_encoding.md R86 on the word of a well-formed command. -/
theorem encode_constraints {i : Instr} (h : i.wellFormed = true) :
    (opField (encode i) = 0x06 → rdField (encode i) ≠ rcField (encode i)) ∧
      (opField (encode i) = 0x0B → (rbField (encode i)).toNat ≤ 11) := by
  obtain ⟨hop, -⟩ := encode_inRow i
  rw [hop]
  cases i with
  | eea rd ra rb rc =>
    rw [encode, rdField_packR, rcField_packR]
    refine ⟨fun _ => by simpa [Instr.wellFormed] using h, ?_⟩
    simp [Laws.EncodesInRow.opcodeOf]
  | crtdec rd ra rb =>
    rw [encode, rbField_packR]
    refine ⟨?_, fun _ => by simpa [Instr.wellFormed] using h⟩
    simp [Laws.EncodesInRow.opcodeOf]
  | _ => simp [Laws.EncodesInRow.opcodeOf]

/-- The decoder undoes the encoder on well-formed commands (30_encoding.md R86, R90). -/
theorem decode_encode {i : Instr} (h : i.wellFormed = true) : decode (encode i) = .ok i := by
  obtain ⟨hop, hmask⟩ := encode_inRow i
  obtain ⟨hdest, hblock⟩ := encode_constraints h
  have hrange : ¬ 0x0B < (opField (encode i)).toNat := by
    rw [hop]
    exact not_lt.mpr (opcodeOf_le i)
  have hrow : ¬ encode i &&& maskOf (opField (encode i)) ≠ matchOf (opField (encode i)) := by
    rw [hop]
    exact not_not.mpr hmask
  have hsame : ¬ ((opField (encode i)).toNat = 0x06 ∧ rdField (encode i) = rcField (encode i)) :=
    fun ⟨h6, heq⟩ => hdest (BitVec.eq_of_toNat_eq h6) heq
  have hpast : ¬ ((opField (encode i)).toNat = 0x0B ∧ 11 < (rbField (encode i)).toNat) :=
    fun ⟨hB, hlt⟩ => absurd (hblock (BitVec.eq_of_toNat_eq hB)) (not_le.mpr hlt)
  rw [decode, if_neg hrange, if_neg hrow, if_neg hsame, if_neg hpast, instrOf_encode]

/-! ## Issue -/

/-- A CMD write to an Idle engine (10_state.md R39). -/
theorem hostAccess_write_cmd_idle {s : State} (h : s.phase = .idle) (w : Word) :
    hostAccess (.write 0x0014 .b4 w) s = answerWith .writeDone (acceptCommand w s) := by
  rw [hostAccess_write_cmd, writeCmd_idle h]

/-- Settles O44, field by field of the issued state. -/
theorem cmdWriteWhileIdleIssues : Obligations.CmdWriteWhileIdleIssues := by
  unfold Obligations.CmdWriteWhileIdleIssues
  intro s t w hidle ht
  rw [hostAccess_write_cmd_idle hidle] at ht
  subst ht
  simp [SameFlags]

/-- A register is written when its sign and each of its limbs is (10_state.md R24). -/
theorem regWritten_iff (limbs : Nat) (r : Reg) :
    regWritten limbs r = true ↔ r.validSign = true ∧ ∀ j < limbs, r.validLimbs[j]? = some true := by
  have hlimb (j : Nat) : r.validLimbs[j]?.getD false = true ↔ r.validLimbs[j]? = some true := by
    cases r.validLimbs[j]? <;> simp
  simp [regWritten, hlimb]

theorem readsUnwritten_iff (w : Word) (s : State) :
    readsUnwritten w s = true ↔
      ∃ i r, decode w = .ok i ∧ r ∈ sources i ∧ ¬ regWritten s.params.limbs (getReg r s) = true := by
  unfold readsUnwritten
  cases hd : decode w with
  | ok i => simp
  | error e => simp

/-- Settles O45, by what `readsUnwritten` says of the sources. -/
theorem issueRecordsUnwrittenSources : Obligations.IssueRecordsUnwrittenSources := by
  unfold Obligations.IssueRecordsUnwrittenSources
  intro s t w hidle ht
  rw [hostAccess_write_cmd_idle hidle] at ht
  subst ht
  refine ⟨rfl, ?_⟩
  simp only [answerWith_faults, acceptCommand_faults, Bool.or_eq_true, readsUnwritten_iff, regWritten_iff]

/-- Settles O46. -/
theorem cmdWriteWhileBusyIsDropped : Obligations.CmdWriteWhileBusyIsDropped := by
  unfold Obligations.CmdWriteWhileBusyIsDropped
  intro s f w hf
  rw [hostAccess_write_cmd, writeCmd_busy hf]
  rfl

/-- The engine's turn after a first step runs the command that this step left in flight. -/
theorem run_then_engine {s v : State} {rest : List Turn} {i : Instr} (hstep : step s = .next v)
    (hsched : v.schedule = .engine :: rest) (hflight : InFlightIs i { v with schedule := rest }) :
    Host.Core.run core 2 s = exec i { v with schedule := rest } := by
  obtain ⟨f, hf, hd, -⟩ := hflight
  have hengine : step v = exec i { v with schedule := rest } := (step_of_engine hsched).trans (engineTurn_legal hf hd)
  rw [exec_busy hf] at hengine ⊢
  rw [run_succ hstep 1, run_succ hengine 0]
  rfl

/-- Settles O13: the state that the CMD write leaves, the engine's turn taken off, is the one that runs. -/
theorem issueThenCompletionRunsTheCommand : Obligations.IssueThenCompletionRunsTheCommand := by
  unfold Obligations.IssueThenCompletionRunsTheCommand
  intro s i rest hwf hidle hs
  have hd := decode_encode hwf
  have hissue := (step_of_host hs).trans
    (congrArg _ (hostAccess_write_cmd_idle (s := { s with schedule := .engine :: rest }) hidle (encode i)))
  have hflight : InFlightIs i
      { answerWith .writeDone (acceptCommand (encode i) { s with schedule := .engine :: rest }) with
        schedule := rest } := by
    refine ⟨_, rfl, hd, ?_⟩
    simp only [latchOf, hd]
    exact latchSources_congr rfl i
  exact ⟨_, hflight, rfl, rfl, rfl, run_then_engine hissue rfl hflight⟩

end Sys2Proof.Machine

/-! # The bus port

What writes to the operand window, REG_SIGN, CTRL and STATUS leave, and what reads answer (10_state.md R26 to R35, R43 to
R47; 60_exceptions.md R187). -/

namespace Sys2Proof.Machine

/-! ## Writes to the operand registers (10_state.md R43; 20_memory.md R63) -/

theorem toNat_limbOf (mag j : Nat) : (limbOf mag j).toNat = mag / 2 ^ (32 * j) % 2 ^ 32 := by
  rw [limbOf, BitVec.toNat_ofNat]

/-- The register whose limb is written: that limb holds the word and is valid, the rest is kept. -/
theorem getReg_writeLimb_self (i : RegNum) (j : Nat) (w : Word) (s : State) :
    getReg i (writeLimb i j w s) =
      { getReg i s with
        mag := withLimb (getReg i s).mag j w
        validLimbs := (getReg i s).validLimbs.set j true } :=
  getReg_setReg_self i _ s

theorem getReg_writeLimb_ne {i r : RegNum} (h : r ≠ i) (j : Nat) (w : Word) (s : State) :
    getReg r (writeLimb i j w s) = getReg r s :=
  getReg_setReg_ne h _ s

/-- Settles O47: the writes are dropped by `unlessBusy` while Busy, and are `writeLimb` and `writeSigns` while Idle. -/
theorem operandWritesWhileBusyAreDropped : Obligations.OperandWritesWhileBusyAreDropped := by
  unfold Obligations.OperandWritesWhileBusyAreDropped
  refine ⟨?_, ?_, ?_, ?_⟩
  · intro s f i j w hf hp hj
    rw [hostAccess_write_limb hp i hj, unlessBusy_busy hf]
    rfl
  · intro s f w hf
    rw [hostAccess_write_regSign, unlessBusy_busy hf]
    rfl
  · intro s t i j w hidle hp hj hlen ht
    rw [hostAccess_write_limb hp i hj, unlessBusy_idle hidle] at ht
    have hgetReg (r : RegNum) : getReg r t = getReg r (writeLimb i j w s) := by
      rw [ht]
      exact getReg_congr rfl r
    refine ⟨by rw [ht]; rfl, ?_⟩
    rw [hgetReg i, getReg_writeLimb_self]
    refine ⟨?_, ?_, rfl, rfl, ?_, ?_⟩
    · rw [← toNat_limbOf, limbOf_withLimb_self]
    · simp [hlen, hj]
    · intro k hk
      refine ⟨?_, List.getElem?_set_ne hk.symm⟩
      rw [← toNat_limbOf, ← toNat_limbOf, limbOf_withLimb_ne hk]
    · intro r hr
      rw [hgetReg r, getReg_writeLimb_ne (by simpa using hr)]
  · intro s t w hidle ht
    rw [hostAccess_write_regSign, unlessBusy_idle hidle] at ht
    refine ⟨by rw [ht]; rfl, fun i => ?_⟩
    have hgetReg : getReg i t = getReg i (writeSigns w s) := by
      rw [ht]
      exact getReg_congr rfl i
    rw [hgetReg, getReg_writeSigns]
    exact ⟨rfl, rfl, rfl, rfl⟩

/-! ## Writes to the control registers -/

/-- Settles O48: `writeStatus` is W1C by definition. -/
theorem statusWriteClearsByOne : Obligations.StatusWriteClearsByOne := by
  unfold Obligations.StatusWriteClearsByOne
  intro s w
  exact hostAccess_write_status w s

/-- Settles O49, at each of the four offsets. -/
theorem readOnlyRegistersIgnoreWrites : Obligations.ReadOnlyRegistersIgnoreWrites := by
  unfold Obligations.ReadOnlyRegistersIgnoreWrites
  intro s w off hoff
  simp only [List.mem_cons, List.not_mem_nil, or_false] at hoff
  rcases hoff with rfl | rfl | rfl | rfl <;> rfl

/-- A CTRL write without SOFT_RESET that aborts nothing takes IRQ_EN alone (10_state.md R28; 60_exceptions.md R187). -/
theorem writeCtrl_noAbort {w : Word} {s : State} (h1 : w.getLsbD 1 = false)
    (h : s.phase = .idle ∨ w.getLsbD 2 = false) : writeCtrl w s = { s with irqEn := w.getLsbD 0 } := by
  cases h2 : w.getLsbD 2 with
  | false => exact writeCtrl_irqEn h1 h2 s
  | true =>
    have hidle : s.phase = .idle := h.resolve_right (by simp [h2])
    rw [writeCtrl_abort h1 h2, abortCommand_idle hidle]

/-- Settles O56: an abort is the end of the command with ABORTED, as any failed completion. -/
theorem abortEndsTheCommand : Obligations.AbortEndsTheCommand := by
  unfold Obligations.AbortEndsTheCommand
  intro s t w h1 ht
  rw [hostAccess_write_ctrl] at ht
  refine ⟨?_, ?_, ?_⟩
  · subst ht
    cases h2 : w.getLsbD 2 with
    | false => rw [writeCtrl_irqEn h1 h2]; rfl
    | true => rw [writeCtrl_abort h1 h2]; rfl
  · intro f hf h2
    rw [writeCtrl_abort h1 h2, abortCommand_busy hf] at ht
    obtain ⟨⟨g, hg, hinfo⟩, -⟩ := finish_err_failed hf .aborted
    obtain rfl : f = g := by simpa [hf] using hg
    subst ht
    exact ⟨hinfo, rfl, rfl, rfl, rfl, ⟨rfl, rfl, rfl⟩, rfl, rfl, rfl, rfl, rfl, rfl, rfl, rfl⟩
  · intro h
    rw [writeCtrl_noAbort h1 h] at ht
    exact ht

/-! ## Words given by their bits -/

theorem testBit_bitsValue (bs : List Bool) (k : Nat) : (bitsValue bs).testBit k = bs.getD k false := by
  induction bs generalizing k with
  | nil => simp [bitsValue]
  | cons b bs ih =>
    cases k with
    | zero => cases b <;> simp [bitsValue]
    | succ k =>
      have hdiv : (b.toNat + 2 * bitsValue bs) / 2 = bitsValue bs := by
        have := Bool.toNat_lt b
        omega
      rw [bitsValue, Nat.testBit_succ, hdiv, ih, List.getD_cons_succ]

/-- A word made of at most 32 bits has those bits, and zeros above. -/
theorem getLsbD_bitsValue {bs : List Bool} (h : bs.length ≤ 32) (k : Nat) :
    (BitVec.ofNat 32 (bitsValue bs)).getLsbD k = bs.getD k false := by
  rw [BitVec.getLsbD_ofNat, testBit_bitsValue]
  by_cases hk : k < 32
  · simp [hk]
  · simp [hk, List.getElem?_eq_none (show bs.length ≤ k by omega)]

/-- Bit k of a read of STATUS (10_state.md R29). -/
theorem getLsbD_statusWord (s : State) (k : Nat) :
    (statusWord s).getLsbD k =
      [isBusy s, s.done, s.err, s.ovr, s.werr, irqLevel s, false, false, s.z, s.one, s.neg].getD k false :=
  getLsbD_bitsValue (by simp) k

theorem isBusy_iff (s : State) : isBusy s = true ↔ ∃ f, s.phase = .busy f := by
  unfold isBusy
  cases s.phase <;> simp

/-- The fields of CFG (10_state.md R27). -/
theorem cfgWord_fields (p : Params) :
    (cfgWord p).extractLsb' 0 16 = BitVec.ofNat 16 p.limbs ∧ (cfgWord p).extractLsb' 16 5 = 16 ∧
      (cfgWord p).extractLsb' 21 11 = 0 := by
  unfold cfgWord
  generalize BitVec.ofNat 16 p.limbs = limbs
  refine ⟨?_, ?_, ?_⟩ <;> ext k hk <;> interval_cases k <;> simp [place]

/-- Settles O53, register by register. -/
theorem controlRegistersReadTheirFields : Obligations.ControlRegistersReadTheirFields := by
  unfold Obligations.ControlRegistersReadTheirFields
  intro s
  refine ⟨rfl, ⟨cfgWord s.params, rfl, cfgWord_fields s.params⟩, ⟨ctrlWord s, rfl, ?_⟩, ⟨statusWord s, rfl, ?_⟩,
    rfl, rfl, rfl⟩
  · have hbit (k : Nat) : (ctrlWord s).getLsbD k = [s.irqEn].getD k false := getLsbD_bitsValue (by simp) k
    refine ⟨hbit 0, fun k hk => ?_⟩
    rw [hbit, List.getD_eq_default _ _ (by simpa using hk)]
  · simp only [getLsbD_statusWord]
    refine ⟨isBusy_iff s, rfl, rfl, rfl, rfl, rfl, rfl, rfl, rfl, rfl, rfl, fun k hk => ?_⟩
    exact List.getD_eq_default _ _ (by simpa using hk)

/-! ## Reads of the operand registers -/

/-- A REG_SIGN read answers the written signs, and some draw's bits for the others (10_state.md R24, R35). -/
theorem readSigns_word (s : State) : ∃ draw, (readSigns s).1 = signsWord draw s := by
  unfold readSigns
  split
  · exact ⟨_, rfl⟩
  · exact ⟨_, rfl⟩

/-- Bit k of the word of a REG_SIGN read. -/
theorem getLsbD_signsWord (draw : Word) (s : State) (k : Nat) :
    (signsWord draw s).getLsbD k = (s.regs.toList.mapIdx (signBit draw)).getD k false :=
  getLsbD_bitsValue (by simp) k

theorem getLsbD_signsWord_reg (draw : Word) (s : State) (i : RegNum) :
    (signsWord draw s).getLsbD i.toNat = signBit draw i.toNat (getReg i s) := by
  have hi : i.toNat < 16 := i.isLt
  rw [getLsbD_signsWord, List.getD_eq_getElem _ _ (by simpa using hi)]
  simp [getReg]

/-- Settles O59, whatever the draw of the read is. -/
theorem regSignReadsTheSigns : Obligations.RegSignReadsTheSigns := by
  unfold Obligations.RegSignReadsTheSigns
  intro s
  obtain ⟨draw, hdraw⟩ := readSigns_word s
  refine ⟨signsWord draw s, hdraw ▸ rfl, ?_, ?_⟩
  · intro i hi
    rw [getLsbD_signsWord_reg, signBit, if_pos hi]
  · intro k hk
    rw [getLsbD_signsWord, List.getD_eq_default _ _ (by simpa using hk)]

/-- A limb that nothing has written reads as a draw (10_state.md R24). -/
theorem readLimb_unwritten {s : State} {i : RegNum} {j : Nat} (h : (getReg i s).validLimbs[j]? = some false) :
    readLimb i j s = drawWord s := by
  simp [readLimb, h]

/-- Settles O60. -/
theorem unwrittenLimbReadsADraw : Obligations.UnwrittenLimbReadsADraw := by
  unfold Obligations.UnwrittenLimbReadsADraw
  intro s i j hp hj hunwritten
  rw [hostAccess_read_limb hp i hj, readLimb_unwritten hunwritten]
  rfl

end Sys2Proof.Machine

/-! # The aperture

What the offsets of the aperture answer: the operand window (20_memory.md R63), illegal accesses (R64), the reserved
offsets (R65), and that a read has no side effect (R68). -/

namespace Sys2Proof.Machine

/-! ## The operand window (20_memory.md R63; 10_state.md R24, R45) -/

/-- A written limb reads as its bits and draws nothing (10_state.md R24). -/
theorem readLimb_written {s : State} {i : RegNum} {j : Nat} (h : (getReg i s).validLimbs[j]? = some true) :
    readLimb i j s = (limbOf (getReg i s).mag j, s) := by
  simp [readLimb, h]

/-- A read of a written limb answers its bits and changes nothing else, Idle or Busy (10_state.md R45). -/
theorem hostAccess_read_limb_written {s : State} (hp : s.params.Valid) {i : RegNum} {j : Nat}
    (hj : j < s.params.limbs) (h : (getReg i s).validLimbs[j]? = some true) :
    hostAccess (.read (BitVec.ofNat 16 (0x1000 + 4 * (i.toNat * s.params.limbs + j))) .b4) s =
      answerWith (.readData (limbOf (getReg i s).mag j)) s := by
  rw [hostAccess_read_limb hp i hj, readLimb_written h]

/-- A read of a limb that is written after an access answers its bits; the access has kept the parameters, so the limb
stands at the same offset. -/
theorem answer_read_limb_after {a : Access} {s : State} (hp : s.params.Valid) {i : RegNum} {j : Nat}
    (hj : j < s.params.limbs) (h : (getReg i (hostAccess a s)).validLimbs[j]? = some true) :
    (hostAccess (.read (BitVec.ofNat 16 (0x1000 + 4 * (i.toNat * s.params.limbs + j))) .b4) (hostAccess a s)).answer =
      some (.readData (limbOf (getReg i (hostAccess a s)).mag j)) := by
  have hparams := hostAccess_params a s
  rw [← hparams] at hp hj ⊢
  rw [hostAccess_read_limb_written hp hj h, answerWith_answer]

/-- The registers after a limb write by an access to an Idle engine. -/
theorem getReg_hostAccess_write_limb {s : State} (hp : s.params.Valid) (hidle : s.phase = .idle) (i : RegNum) {j : Nat}
    (hj : j < s.params.limbs) (w : Word) (r : RegNum) :
    getReg r (hostAccess (.write (BitVec.ofNat 16 (0x1000 + 4 * (i.toNat * s.params.limbs + j))) .b4 w) s) =
      getReg r (writeLimb i j w s) := by
  rw [hostAccess_write_limb hp i hj, unlessBusy_idle hidle]
  exact getReg_congr rfl r

theorem limbOf_writeLimb_self (i : RegNum) (j : Nat) (w : Word) (s : State) :
    limbOf (getReg i (writeLimb i j w s)).mag j = w := by
  rw [getReg_writeLimb_self, limbOf_withLimb_self]

theorem validLimbs_writeLimb_self {s : State} {i : RegNum} {j : Nat} (hj : j < (getReg i s).validLimbs.length)
    (w : Word) : (getReg i (writeLimb i j w s)).validLimbs[j]? = some true := by
  rw [getReg_writeLimb_self]
  exact List.getElem?_set_self hj

/-- Every limb of every register but the one written keeps its bits and its VALID bit (20_memory.md R63). -/
theorem writeLimb_other_limb {i i' : RegNum} {j j' : Nat} (hne : (i', j') ≠ (i, j)) (w : Word) (s : State) :
    limbOf (getReg i' (writeLimb i j w s)).mag j' = limbOf (getReg i' s).mag j' ∧
      (getReg i' (writeLimb i j w s)).validLimbs[j']? = (getReg i' s).validLimbs[j']? := by
  by_cases hi : i' = i
  · subst hi
    have hj : j' ≠ j := fun h => hne (by rw [h])
    rw [getReg_writeLimb_self]
    exact ⟨limbOf_withLimb_ne hj _ w, List.getElem?_set_ne hj.symm⟩
  · rw [getReg_writeLimb_ne hi]
    exact ⟨rfl, rfl⟩

/-- Settles O57: every clause reads the registers that `writeLimb` leaves. -/
theorem windowReadsWhatWasWritten : Obligations.WindowReadsWhatWasWritten := by
  unfold Obligations.WindowReadsWhatWasWritten
  refine ⟨fun s i j hp hj hvalid => hostAccess_read_limb_written hp hj hvalid, ?_⟩
  rintro s t i j w ⟨hp, hregs, -, -⟩ hidle hj rfl
  have hgetReg := getReg_hostAccess_write_limb hp hidle i hj w
  obtain ⟨-, hlen⟩ := hregs i
  have hvalid := validLimbs_writeLimb_self (hlen.symm ▸ hj) w
  rw [← hgetReg] at hvalid
  refine ⟨?_, hvalid, fun i' j' hj' hne => ?_⟩
  · rw [answer_read_limb_after hp hj hvalid, hgetReg, limbOf_writeLimb_self]
  · obtain ⟨hbits, hkept⟩ := writeLimb_other_limb hne w s
    rw [← hgetReg] at hbits hkept
    refine ⟨?_, hkept, fun hwritten => ?_⟩
    · rw [← toNat_limbOf, ← toNat_limbOf, hbits]
    · rw [answer_read_limb_after hp hj' (hkept.trans hwritten), hostAccess_read_limb_written hp hj' hwritten, hbits,
        answerWith_answer]

/-! ## Legal and illegal accesses (20_memory.md R64, R65, R68) -/

theorem accessLegal_aligned {off : Offset} (h : off.toNat % 4 = 0) : accessLegal off .b4 = true := by
  simp [accessLegal, h]

theorem accessLegal_eq_false {off : Offset} {size : AccessSize} (h : size ≠ .b4 ∨ off.toNat % 4 ≠ 0) :
    accessLegal off size = false := by
  rcases h with h | h
  · simp [accessLegal, h]
  · simp [accessLegal, h]

/-- The offsets between the control registers and the operand window, and those past it, name nothing (20_memory.md
R65). -/
theorem targetAt_reserved {p : Params} {off : Nat} (h : (0x0020 ≤ off ∧ off < 0x1000) ∨ 0x1000 + 64 * p.limbs ≤ off) :
    targetAt p off = .reserved := by
  rw [targetAt_past_control p (by omega), if_neg (by omega)]

/-- Settles O50. -/
theorem reservedOffsetsReadZeroAndIgnoreWrites : Obligations.ReservedOffsetsReadZeroAndIgnoreWrites := by
  unfold Obligations.ReservedOffsetsReadZeroAndIgnoreWrites
  intro s off w halign hoff
  have hlegal := accessLegal_aligned halign
  rw [hostAccess_read_legal hlegal, hostAccess_write_legal hlegal, targetAt_reserved hoff]
  exact ⟨rfl, rfl⟩

/-- Settles O51: both accesses are answered with an error and leave what `recordBusError` leaves. -/
theorem illegalAccessesChangeNothing : Obligations.IllegalAccessesChangeNothing := by
  unfold Obligations.IllegalAccessesChangeNothing
  intro s off size w h
  have hillegal := accessLegal_eq_false h
  exact ⟨⟨.readError, hostAccess_read_illegal hillegal s, rfl, rfl⟩,
    ⟨.writeError, hostAccess_write_illegal hillegal w s, rfl⟩⟩

/-- Settles O52, by the two things that a read can do (`readTarget_state`). -/
theorem readsHaveNoSideEffect : Obligations.ReadsHaveNoSideEffect := by
  unfold Obligations.ReadsHaveNoSideEffect
  intro s t off halign ht
  rw [hostAccess_read_legal (accessLegal_aligned halign)] at ht
  refine ⟨?_, _, by rw [ht, answerWith_answer]⟩
  rcases readTarget_state (targetAt s.params off.toNat) s with hread | hread
  · rw [ht, hread]
    rfl
  · rw [ht, hread]
    rfl

end Sys2Proof.Machine

/-! # Legal words

Which words decode (30_encoding.md R84, R86), that a legal word is the word of its command, and what an illegal word does
(R89). -/

namespace Sys2Proof.Machine

open Sys2Proof.Laws.EncodesInRow (opcodeOf or_and place_zero)

/-! ## The decoder, condition by condition (30_encoding.md R86, R90) -/

/-- The four conditions of 30_encoding.md R86, in the decoder's own terms. -/
def LegalWord (w : Word) : Prop :=
  ((opField w).toNat ≤ 0x0B ∧ w &&& maskOf (opField w) = matchOf (opField w)) ∧
    (opField w = 0x06 → rdField w ≠ rcField w) ∧ (opField w = 0x0B → (rbField w).toNat ≤ 11)

/-- A word decodes to what its fields name, exactly if it is legal. -/
theorem decode_eq_ok_iff (w : Word) (i : Instr) : decode w = .ok i ↔ LegalWord w ∧ instrOf w = .ok i := by
  unfold decode
  split_ifs with hrange hrow hsame hpast
  · exact iff_of_false nofun fun ⟨⟨⟨hle, _⟩, _⟩, _⟩ => not_le.mpr hrange hle
  · exact iff_of_false nofun fun ⟨⟨⟨_, hmatch⟩, _⟩, _⟩ => hrow hmatch
  · obtain ⟨h6, heq⟩ := hsame
    exact iff_of_false nofun fun ⟨⟨_, hdest, _⟩, _⟩ => hdest (BitVec.eq_of_toNat_eq h6) heq
  · obtain ⟨hB, hlt⟩ := hpast
    exact iff_of_false nofun fun ⟨⟨_, _, hblock⟩, _⟩ => not_le.mpr hlt (hblock (BitVec.eq_of_toNat_eq hB))
  · have hlegal : LegalWord w :=
      ⟨⟨not_lt.mp hrange, not_not.mp hrow⟩, fun h6 heq => hsame ⟨congrArg BitVec.toNat h6, heq⟩,
        fun hB => not_lt.mp fun hlt => hpast ⟨congrArg BitVec.toNat hB, hlt⟩⟩
    exact (and_iff_right hlegal).symm

/-- `MNEMONIC[op]` is defined for the twelve opcodes of the map (30_encoding.md R84, R90). -/
theorem instrOf_ok_of_le {w : Word} (h : (opField w).toNat ≤ 0x0B) : ∃ i, instrOf w = .ok i := by
  unfold instrOf
  interval_cases (opField w).toNat <;> exact ⟨_, rfl⟩

theorem decodes_iff_legalWord (w : Word) : (∃ i, decode w = .ok i) ↔ LegalWord w := by
  simp only [decode_eq_ok_iff, exists_and_left]
  exact and_iff_left_of_imp fun ⟨⟨hrange, _⟩, _⟩ => instrOf_ok_of_le hrange

/-! ## The opcode map (30_encoding.md R84) -/

/-- The rows (OP, MATCH, MASK) of the map, from the decoder's columns. -/
def opcodeMap : List (BitVec 6 × Word × Word) :=
  (List.range 12).map fun k => (BitVec.ofNat 6 k, matchOf (BitVec.ofNat 6 k), maskOf (BitVec.ofNat 6 k))

/-- A word is in some row exactly if it is in the row of its opcode. -/
theorem exists_mem_opcodeMap_iff (w : Word) :
    (∃ row ∈ opcodeMap, opField w = row.1 ∧ w &&& row.2.2 = row.2.1) ↔
      (opField w).toNat ≤ 0x0B ∧ w &&& maskOf (opField w) = matchOf (opField w) := by
  constructor
  · rintro ⟨row, hrow, hop, hmask⟩
    obtain ⟨k, hk, rfl⟩ := List.mem_map.mp hrow
    have hk12 : k < 12 := List.mem_range.mp hk
    rw [hop]
    refine ⟨?_, hmask⟩
    rw [BitVec.toNat_ofNat]
    omega
  · rintro ⟨hop, hmask⟩
    have hk : (opField w).toNat ∈ List.range 12 := List.mem_range.mpr (by omega)
    refine ⟨_, List.mem_map_of_mem hk, ?_⟩
    rw [BitVec.ofNat_toNat, BitVec.setWidth_eq]
    exact ⟨rfl, hmask⟩

/-- Settles O4: the rows written out are the decoder's columns. -/
theorem legalWords : Obligations.LegalWords := by
  unfold Obligations.LegalWords
  intro w
  change _ ↔ (∃ row ∈ opcodeMap, opField w = row.1 ∧ w &&& row.2.2 = row.2.1) ∧ _
  rw [exists_mem_opcodeMap_iff]
  exact decodes_iff_legalWord w

/-! ## A legal word is the word of its command

Under the mask of its row a legal word is MATCH; the bits outside it are the fields of the row's format. -/

/-- Two words are equal if they agree under a mask and outside it. -/
theorem eq_of_and_mask {v w m : Word} (hin : v &&& m = w &&& m) (hout : v &&& ~~~m = w &&& ~~~m) : v = w := by
  have hsplit (u : Word) : u &&& m ||| u &&& ~~~m = u := by
    ext k hk
    simp [← Bool.and_or_distrib_left]
  rw [← hsplit v, ← hsplit w, hin, hout]

/-! A field in its place is the word under the field's own mask (30_encoding.md R82, R83). -/

theorem place_rdField (w : Word) : place 22 (rdField w) = w &&& 0x03C00000 := by
  ext k hk
  interval_cases k <;> simp [place, rdField]

theorem place_raField (w : Word) : place 18 (raField w) = w &&& 0x003C0000 := by
  ext k hk
  interval_cases k <;> simp [place, raField]

theorem place_rbField (w : Word) : place 14 (rbField w) = w &&& 0x0003C000 := by
  ext k hk
  interval_cases k <;> simp [place, rbField]

theorem place_rcField (w : Word) : place 10 (rcField w) = w &&& 0x00003C00 := by
  ext k hk
  interval_cases k <;> simp [place, rcField]

theorem place_immField (w : Word) : place 0 (immField w) = w &&& 0x0000FFFF := by
  ext k hk
  interval_cases k <;> simp [place, immField]

/-- Outside bits [31:26] a word has nothing of its opcode. -/
theorem place26_outside {m : Word} (h : m &&& 0xFC000000 = 0) (op : BitVec 6) : place 26 op &&& m = 0 := by
  have hop : place 26 op = place 26 op &&& 0xFC000000 := by revert op; decide
  rw [hop, BitVec.and_assoc, BitVec.and_comm _ m, h]
  exact BitVec.and_zero

/-! The bits outside the mask, format by format. -/

theorem packR_fields4 (op : BitVec 6) (w : Word) :
    packR op (rdField w) (raField w) (rbField w) (rcField w) &&& ~~~0xFC0003FF#32 = w &&& ~~~0xFC0003FF#32 := by
  simp only [packR, or_and, place_rdField, place_raField, place_rbField, place_rcField, BitVec.and_assoc]
  rw [place26_outside (by decide)]
  simp [← BitVec.and_or_distrib_left]

theorem packR_fields3 (op : BitVec 6) (w : Word) :
    packR op (rdField w) (raField w) (rbField w) 0 &&& ~~~0xFC003FFF#32 = w &&& ~~~0xFC003FFF#32 := by
  simp only [packR, or_and, place_rdField, place_raField, place_rbField, place_zero, BitVec.and_assoc]
  rw [place26_outside (by decide)]
  simp [← BitVec.and_or_distrib_left]

theorem packR_fields2 (op : BitVec 6) (w : Word) :
    packR op (rdField w) (raField w) 0 0 &&& ~~~0xFC03FFFF#32 = w &&& ~~~0xFC03FFFF#32 := by
  simp only [packR, or_and, place_rdField, place_raField, place_zero, BitVec.and_assoc]
  rw [place26_outside (by decide)]
  simp [← BitVec.and_or_distrib_left]

theorem packI_fields (op : BitVec 6) (w : Word) :
    packI op (rdField w) (immField w) &&& ~~~0xFC3F0000#32 = w &&& ~~~0xFC3F0000#32 := by
  simp only [packI, or_and, place_rdField, place_immField, BitVec.and_assoc]
  rw [place26_outside (by decide)]
  simp [← BitVec.and_or_distrib_left]

/-- The command that a word names has the word's opcode. -/
theorem opcodeOf_of_instrOf {w : Word} {i : Instr} (h : instrOf w = .ok i) : opcodeOf i = opField w := by
  unfold instrOf at h
  split at h <;> cases h
  all_goals next hop => exact BitVec.eq_of_toNat_eq hop.symm

/-- The word of the command that a word names has the same bits outside the mask of their row. -/
theorem encode_of_instrOf_fields {w : Word} {i : Instr} (h : instrOf w = .ok i) :
    encode i &&& ~~~maskOf (opcodeOf i) = w &&& ~~~maskOf (opcodeOf i) := by
  unfold instrOf at h
  split at h <;> cases h
  case h_1 => exact BitVec.and_zero.trans BitVec.and_zero.symm
  case h_2 => exact packI_fields _ w
  case h_3 => exact packR_fields2 _ w
  case h_4 | h_5 | h_6 | h_10 | h_12 => exact packR_fields3 _ w
  case h_7 | h_8 | h_9 | h_11 => exact packR_fields4 _ w

/-- The encoder undoes the decoder (30_encoding.md R84, R86). -/
theorem encode_of_decode {w : Word} {i : Instr} (h : decode w = .ok i) : encode i = w := by
  obtain ⟨⟨⟨-, hrow⟩, -⟩, hinstr⟩ := (decode_eq_ok_iff w i).mp h
  rw [← opcodeOf_of_instrOf hinstr] at hrow
  obtain ⟨-, hencode⟩ := encode_inRow i
  exact eq_of_and_mask (hencode.trans hrow.symm) (encode_of_instrOf_fields hinstr)

/-- Settles O2: the word of a well-formed command passes the four tests, and its fields are the command's. -/
theorem decodeOfEncode : Obligations.DecodeOfEncode := by
  unfold Obligations.DecodeOfEncode
  exact fun _ => decode_encode

/-- Settles O3: word and command's word agree under the mask of their row and outside it. -/
theorem encodeOfDecode : Obligations.EncodeOfDecode := by
  unfold Obligations.EncodeOfDecode
  exact fun _ _ => encode_of_decode

/-- Settles O1: the decoder runs on each word, and `encode_of_decode` gives the way back. -/
theorem exampleWordsDecodeAndEncode : Obligations.ExampleWordsDecodeAndEncode := by
  unfold Obligations.ExampleWordsDecodeAndEncode
  have both {w : Word} {i : Instr} (h : decode w = .ok i) : decode w = .ok i ∧ encode i = w := ⟨h, encode_of_decode h⟩
  exact ⟨both (by decide), both (by decide), both (by decide), both (by decide), both (by decide), both (by decide)⟩

/-! ## Illegal words (30_encoding.md R86, R89) -/

/-- An illegal word latches nothing (10_state.md R40). -/
theorem latchOf_illegal {w : Word} {e : DecodeError} (h : decode w = .error e) (s : State) : latchOf w s = {} := by
  simp [latchOf, h]

/-- An illegal word has no sources to be unwritten (10_state.md R24). -/
theorem readsUnwritten_illegal {w : Word} {e : DecodeError} (h : decode w = .error e) (s : State) :
    readsUnwritten w s = false := by
  simp [readsUnwritten, h]

/-- The engine's turn ends an illegal word with ILLEGAL (10_state.md R41). -/
theorem engineTurn_illegal {s : State} {f : InFlight} {e : DecodeError} (h : s.phase = .busy f)
    (hd : decode f.word = .error e) : engineTurn s = .next (finish f (.err .illegal) s) := by
  simp [engineTurn, h, hd, completeIllegal]

/-- Settles O5: the issue of a word that decodes to nothing, and its completion as any failed one. -/
theorem illegalWordFailsWithIllegal : Obligations.IllegalWordFailsWithIllegal := by
  unfold Obligations.IllegalWordFailsWithIllegal
  intro w e hd
  refine ⟨fun s hidle => ?_, ?_⟩
  · rw [hostAccess_write_cmd_idle hidle, answerWith_phase, answerWith_faults, acceptCommand_phase, acceptCommand_faults,
      latchOf_illegal hd, readsUnwritten_illegal hd, Bool.or_false]
    exact ⟨rfl, rfl⟩
  · rintro s f hf rfl
    exact ⟨_, engineTurn_illegal hf hd, finish_err_failed hf .illegal⟩

end Sys2Proof.Machine

/-! # Number theory

What GCD, COPRIME and EEA write, and the laws of what they write (40_number_theory.md R101 to R113). -/

namespace Sys2Proof.Machine

/-! ## A command that commits -/

/-- A command in flight whose rule has one result on the live operands commits it (10_state.md R41, R42). -/
theorem inFlightIs_commitsOne {i : Instr} {s : State} {rd : RegNum} {v : Int} (h : InFlightIs i s)
    (hrule : ruleOf s.params i (latchSources i s) = okOne rd v) :
    ∃ t, exec i s = .next t ∧ CommitsOne rd v s t := by
  obtain ⟨f, -, -, hexec⟩ := inFlightIs_exec h
  rw [hrule] at hexec
  exact ⟨_, hexec, finish_okOne_commits f rd v s⟩

/-- A register as a command writes `v` to it holds `v` (10_state.md R22, R24). -/
theorem holdsResult_of_getReg {rd : RegNum} {v : Int} {t : State} (h : getReg rd t = regOf t.params.limbs v) :
    HoldsResult rd v t := by
  refine ⟨?_, ?_, ?_⟩
  · rw [readReg, h, regValue_regOf]
  · simp [h, regOf]
  · rw [h, regWritten_regOf]

/-- A successful completion that writes two different registers holds both results (10_state.md R42). -/
theorem finish_okTwo_holds (f : InFlight) {rd rc : RegNum} (hne : rd ≠ rc) (v w : Int) (p : Option Int) (s : State) :
    HoldsResult rd v (finish f (.ok [(rd, v), (rc, w)] p) s) ∧
      HoldsResult rc w (finish f (.ok [(rd, v), (rc, w)] p) s) := by
  have hparams : (finish f (.ok [(rd, v), (rc, w)] p) s).params = s.params := by simp
  refine ⟨holdsResult_of_getReg ?_, holdsResult_of_getReg ?_⟩ <;> rw [hparams, getReg_finish_ok]
  · simp [applyWrites, writeReg, hne]
  · simp [applyWrites, writeReg]

/-- A successful completion leaves the registers it does not write (10_state.md R38). -/
theorem finish_ok_sameRegsExcept (f : InFlight) (ws : List (RegNum × Int)) (p : Option Int) (s : State) :
    SameRegsExcept (ws.map Prod.fst) s (finish f (.ok ws p) s) := by
  intro r hr
  rw [getReg_finish_ok, getReg_applyWrites_of_notMem hr]

/-- The flags a completion leaves are those of its primary result (10_state.md R33). -/
theorem finish_ok_flagsOf (f : InFlight) (ws : List (RegNum × Int)) (v : Int) (s : State) :
    FlagsOf v (finish f (.ok ws (some v)) s) := by
  simp [FlagsOf, commit, endCommand]

/-! ## GCD and COPRIME (40_number_theory.md R101 to R104) -/

/-- The two unsigned sources of a command of number theory pass the sign check (60_exceptions.md R182). -/
theorem checkUnsigned_two {a b : Int} (ha : 0 ≤ a) (hb : 0 ≤ b) (own : Result) : checkUnsigned [a, b] own = own :=
  checkUnsigned_pass (by simp [ha, hb]) own

theorem gcdRule_eq {L : Latch} (ha : 0 ≤ L.a) (hb : 0 ≤ L.b) (rd : RegNum) :
    gcdRule rd L = okOne rd (Int.gcd L.a L.b) := by
  rw [gcdRule, checkUnsigned_two ha hb, euclid_toNat ha hb]

theorem coprimeRule_eq {L : Latch} (ha : 0 ≤ L.a) (hb : 0 ≤ L.b) (rd : RegNum) :
    coprimeRule rd L = okOne rd (if Int.gcd L.a L.b = 1 then 1 else 0) := by
  rw [coprimeRule, checkUnsigned_two ha hb, euclid_toNat ha hb]

/-- Settles O23: Euclid's loop computes the library's `gcd` (`euclid_eq_gcd`). -/
theorem gcdWritesTheDivisor : Obligations.GcdWritesTheDivisor := by
  unfold Obligations.GcdWritesTheDivisor
  intro s rd ra rb h ha hb
  exact inFlightIs_commitsOne h (gcdRule_eq ha hb rd)

/-- Settles O24: the test of COPRIME is on the same `gcd`. -/
theorem coprimeWritesTheBoolean : Obligations.CoprimeWritesTheBoolean := by
  unfold Obligations.CoprimeWritesTheBoolean
  intro s rd ra rb h ha hb
  exact inFlightIs_commitsOne h (coprimeRule_eq ha hb rd)

/-- Settles O38: what O23 says that GCD writes is symmetric, and is `a` for `b = 0`. -/
theorem gcdLaws : Obligations.GcdLaws := by
  unfold Obligations.GcdLaws
  refine ⟨?_, ?_⟩
  · intro s s' rd ra rb h h' hra hrb ha hb
    obtain ⟨t, hexec, ht⟩ := gcdWritesTheDivisor s rd ra rb h ha hb
    obtain ⟨t', hexec', ht'⟩ := gcdWritesTheDivisor s' rd rb ra h' (hrb ▸ hb) (hra ▸ ha)
    rw [hra, hrb, Int.gcd_comm] at ht'
    exact ⟨_, t, t', hexec, ht, hexec', ht'⟩
  · intro s rd ra rb h ha hb
    obtain ⟨t, hexec, ht⟩ := gcdWritesTheDivisor s rd ra rb h ha hb.ge
    rw [hb, Int.gcd_zero_right, Int.natAbs_of_nonneg ha] at ht
    exact ⟨t, hexec, ht⟩

/-! ## The recursion of EEA (40_number_theory.md R110 to R113) -/

/-- `bezout` returns the pair of the recursion (40_number_theory.md R111). -/
theorem eeaPair_bezout (a b : Nat) : EeaPair a b (bezout a b).1 (bezout a b).2 := by
  induction b using Nat.strong_induction_on generalizing a with
  | _ b ih =>
    by_cases hb : b = 0
    · subst hb
      exact .base a
    · rw [bezout_step a hb]
      exact .step a b _ _ hb (ih _ (Nat.mod_lt a (Nat.pos_of_ne_zero hb)) b)

/-- A division step in the integers: quotient and remainder as naturals give the dividend back. -/
theorem natCast_mod_add_div_mul (a b : Nat) : ((a % b : Nat) : Int) + (a / b : Nat) * b = a := by
  exact_mod_cast Nat.mod_add_div' a b

/-- Bézout's identity, by induction on the recursion (40_number_theory.md R110). -/
theorem EeaPair.identity {a b : Nat} {s t : Int} (h : EeaPair a b s t) : s * a + t * b = Nat.gcd a b := by
  induction h with
  | base a => simp
  | step a b s' t' hb rest ih =>
    have hdiv := natCast_mod_add_div_mul a b
    calc t' * a + (s' - (a / b : Nat) * t') * b
        = s' * b + t' * (a - (a / b : Nat) * b) := by ring
      _ = s' * b + t' * (a % b : Nat) := by rw [← hdiv, add_sub_cancel_right]
      _ = Nat.gcd a b := by rw [ih, Nat.gcd_comm, ← Nat.gcd_rec, Nat.gcd_comm]

/-- The bound of 40_number_theory.md R113, by induction on the recursion. Its last step, with remainder 0, returns
`t = 1`; in every other step `|t| ≤ r + q·b = a`. -/
theorem EeaPair.bounds {a b : Nat} {s t : Int} (h : EeaPair a b s t) :
    |s| ≤ max 1 (b : Int) ∧ |t| ≤ max 1 (a : Int) := by
  induction h with
  | base a => simp
  | step a b s' t' hb rest ih =>
    obtain ⟨hs', ht'⟩ := ih
    have hbpos : (1 : Int) ≤ b := by omega
    refine ⟨ht', ?_⟩
    rw [max_eq_right hbpos] at ht'
    by_cases hr : a % b = 0
    · rw [hr] at rest
      cases rest with
      | base => simp
      | step _ _ _ _ hne => exact absurd rfl hne
    · have hrpos : (1 : Int) ≤ (a % b : Nat) := by omega
      rw [max_eq_right hrpos] at hs'
      refine le_max_of_le_right ?_
      calc |s' - (a / b : Nat) * t'|
          ≤ |s'| + |((a / b : Nat) : Int) * t'| := abs_sub _ _
        _ = |s'| + (a / b : Nat) * |t'| := by rw [abs_mul, Nat.abs_cast]
        _ ≤ (a % b : Nat) + (a / b : Nat) * b := by gcongr
        _ = a := natCast_mod_add_div_mul a b

/-! ## EEA (40_number_theory.md R112) -/

/-- A value that is no larger than 1 or than an operand fits where the operand does, since OPW is at least 64
(00_scope.md R6). -/
theorem fits_of_abs_le_max {p : Params} (hp : p.Valid) {x v : Int} (hv : v.natAbs < 2 ^ p.opw) (h : |x| ≤ max 1 v) :
    fits p x = true := by
  have := two_pow_16_le hp
  rw [Int.abs_eq_natAbs] at h
  rw [fits_iff]
  omega

/-- With operands that fit, EEA writes the pair of the recursion: no OVERFLOW arises (40_number_theory.md R113). -/
theorem eeaRule_eq {p : Params} {L : Latch} {rd rc : RegNum} (hp : p.Valid) (hL : LatchFits p L) (hne : rd ≠ rc)
    (ha : 0 ≤ L.a) (hb : 0 ≤ L.b) :
    ∃ s t, EeaPair L.a.toNat L.b.toNat s t ∧ eeaRule p rd rc L = .ok [(rd, s), (rc, t)] (some s) := by
  obtain ⟨hafit, hbfit, -⟩ := hL
  have hpair := eeaPair_bezout L.a.toNat L.b.toNat
  obtain ⟨hs, ht⟩ := hpair.bounds
  rw [Int.toNat_of_nonneg hb] at hs
  rw [Int.toNat_of_nonneg ha] at ht
  refine ⟨_, _, hpair, ?_⟩
  rw [eeaRule, if_neg hne, checkUnsigned_two ha hb]
  simp [fits_of_abs_le_max hp hbfit hs, fits_of_abs_le_max hp hafit ht]

/-- Settles O25: the decoder keeps RD and RC apart, and the operands fit their registers. -/
theorem eeaWritesTheRecursionsPair : Obligations.EeaWritesTheRecursionsPair := by
  unfold Obligations.EeaWritesTheRecursionsPair
  rintro st rd ra rb rc ⟨hparams, hregs, -, -⟩ h ha hb
  obtain ⟨f, -, hwf, hexec⟩ := inFlightIs_exec h
  have hne : rd ≠ rc := by simpa [Instr.wellFormed] using hwf
  obtain ⟨s, t, hpair, hrule⟩ := eeaRule_eq (rd := rd) (rc := rc) hparams
    (latchSources_fits hregs (.eea rd ra rb rc)) hne ha hb
  rw [ruleOf, hrule] at hexec
  obtain ⟨hrd, hrc⟩ := finish_okTwo_holds f hne s t (some s) st
  exact ⟨s, t, _, hpair, hexec, hrd, hrc, finish_ok_flagsOf f _ s st,
    finish_ok_sameRegsExcept f [(rd, s), (rc, t)] _ st, finish_ok_done f _ _ st⟩

/-- Settles O39, from Bézout's identity of the pair that O25 says is written. -/
theorem eeaMeetsBezoutsIdentity : Obligations.EeaMeetsBezoutsIdentity := by
  unfold Obligations.EeaMeetsBezoutsIdentity
  intro st u rd ra rb rc hinv h ha hb hexec
  obtain ⟨s, t, u', hpair, hexec', ⟨hrd, -⟩, ⟨hrc, -⟩, -⟩ := eeaWritesTheRecursionsPair st rd ra rb rc hinv h ha hb
  obtain rfl : u = u' := by simpa [hexec] using hexec'
  have hidentity := hpair.identity
  rw [Int.toNat_of_nonneg ha, Int.toNat_of_nonneg hb, ← euclid_eq_gcd, euclid_toNat ha hb] at hidentity
  rw [hrd, hrc, hidentity]

/-- Settles O40, from the bounds of the pair that O25 says is written. -/
theorem bezoutCoefficientsAreBounded : Obligations.BezoutCoefficientsAreBounded := by
  unfold Obligations.BezoutCoefficientsAreBounded
  intro st rd ra rb rc hinv h ha hb
  obtain ⟨s, t, u, hpair, hexec, ⟨hrd, -⟩, ⟨hrc, -⟩, -, -, hdone⟩ :=
    eeaWritesTheRecursionsPair st rd ra rb rc hinv h ha hb
  obtain ⟨hs, ht⟩ := hpair.bounds
  rw [Int.toNat_of_nonneg hb] at hs
  rw [Int.toNat_of_nonneg ha] at ht
  exact ⟨u, hexec, hdone, hrd ▸ hs, hrc ▸ ht⟩

end Sys2Proof.Machine

/-! # Modular arithmetic

What MOD, MODMUL and MODPOW write, and the laws of MODPOW (41_modular_arithmetic.md R120 to R133). -/

namespace Sys2Proof.Machine

/-! ## The rules at a positive modulus (41_modular_arithmetic.md R120, R124, R132) -/

/-- The three unsigned sources of MODMUL and MODPOW pass the sign check, and a positive modulus passes its own
(60_exceptions.md R182). -/
theorem checkUnsigned_checkModulus_three {a b n : Int} (ha : 0 ≤ a) (hb : 0 ≤ b) (hn : 0 < n) (own : Result) :
    checkUnsigned [a, b, n] (checkModulus n own) = own := by
  rw [checkUnsigned_pass (by simp [ha, hb, hn.le]), checkModulus_pass hn.ne']

theorem modRule_eq {L : Latch} (hn : 0 < L.b) (rd : RegNum) : modRule rd L = okOne rd (L.a % L.b) := by
  rw [modRule, checkUnsigned_pass (by simp [hn.le]), checkModulus_pass hn.ne', modulo_eq_emod L.a hn.le]

theorem modmulRule_eq {L : Latch} (ha : 0 ≤ L.a) (hb : 0 ≤ L.b) (hn : 0 < L.c) (rd : RegNum) :
    modmulRule rd L = okOne rd (L.a * L.b % L.c) := by
  rw [modmulRule, checkUnsigned_checkModulus_three ha hb hn, modulo_eq_emod _ hn.le]

theorem modpowRule_eq {L : Latch} (ha : 0 ≤ L.a) (hb : 0 ≤ L.b) (hn : 0 < L.c) (rd : RegNum) :
    modpowRule rd L = okOne rd (L.a ^ L.b.toNat % L.c) := by
  rw [modpowRule, checkUnsigned_checkModulus_three ha hb hn, modpow_toNat _ ha hn]

/-! ## MOD (41_modular_arithmetic.md R121) -/

/-- A number below `n` that is congruent to `a` is the remainder of `a`. -/
theorem eq_emod_of_dvd_sub {a n u : Int} (h0 : 0 ≤ u) (hlt : u < n) (hdvd : n ∣ a - u) : u = a % n :=
  calc u = u % n := (Int.emod_eq_of_lt h0 hlt).symm
    _ = a % n := Int.modEq_iff_dvd.mpr hdvd

/-- Settles O22: MOD writes the non-negative remainder, the only number below the modulus congruent to the dividend. -/
theorem modReturnsTheResidue : Obligations.ModReturnsTheResidue := by
  unfold Obligations.ModReturnsTheResidue
  intro s rd ra rb h hn
  obtain ⟨t, hexec, ht⟩ := inFlightIs_commitsOne h (modRule_eq hn rd)
  exact ⟨readReg ra s % readReg rb s, t, hexec, ht, Int.emod_nonneg _ hn.ne', Int.emod_lt_of_pos _ hn,
    Int.dvd_self_sub_emod, fun _ => eq_emod_of_dvd_sub⟩

/-! ## MODMUL and MODPOW (41_modular_arithmetic.md R123, R131, R133) -/

/-- Settles O26: the rule of MODMUL reduces the exact product. -/
theorem modmulWritesTheExactResidue : Obligations.ModmulWritesTheExactResidue := by
  unfold Obligations.ModmulWritesTheExactResidue
  intro s rd ra rb rc h ha hb hn
  exact inFlightIs_commitsOne h (modmulRule_eq ha hb hn rd)

/-- Settles O27: square-and-multiply computes the residue of the power (`modpow_eq_pow_mod`). -/
theorem modpowWritesThePowersResidue : Obligations.ModpowWritesThePowersResidue := by
  unfold Obligations.ModpowWritesThePowersResidue
  intro s rd ra rb rc h ha hb hn
  exact inFlightIs_commitsOne h (modpowRule_eq ha hb hn rd)

/-- Settles O41: what O27 says that MODPOW writes, at exponent 0 and at modulus 1. -/
theorem modpowLaws : Obligations.ModpowLaws := by
  unfold Obligations.ModpowLaws
  refine ⟨?_, ?_⟩
  · intro s rd ra rb rc h ha hb hn
    obtain ⟨t, hexec, ht⟩ := modpowWritesThePowersResidue s rd ra rb rc h ha hb.ge (by omega)
    rw [hb, Int.toNat_zero, pow_zero, Int.emod_eq_of_lt one_pos.le hn] at ht
    exact ⟨t, hexec, ht⟩
  · intro s rd ra rb rc h ha hb hn
    obtain ⟨t, hexec, ht⟩ := modpowWritesThePowersResidue s rd ra rb rc h ha hb (by omega)
    rw [hn, Int.emod_one] at ht
    exact ⟨t, hexec, ht⟩

end Sys2Proof.Machine

/-! # Modular inverse

The three outcomes of MODINV on a non-negative operand and a positive modulus (42_modular_inverse.md R141 to R143). -/

namespace Sys2Proof.Machine

/-! ## Bézout's coefficient as the inverse (42_modular_inverse.md R142) -/

/-- For coprime operands the coefficient of `e` is an inverse of `e` modulo `t`. -/
theorem bezout_mul_modEq_one {e t : Int} (he : 0 ≤ e) (ht : 0 ≤ t) (hgcd : Int.gcd e t = 1) :
    (bezout e.toNat t.toNat).1 * e ≡ 1 [ZMOD t] := by
  have hidentity := (eeaPair_bezout e.toNat t.toNat).identity
  rw [← euclid_eq_gcd, euclid_toNat he ht, hgcd, Int.toNat_of_nonneg he, Int.toNat_of_nonneg ht] at hidentity
  rw [Int.modEq_iff_dvd, ← Nat.cast_one, ← hidentity, add_sub_cancel_left]
  exact dvd_mul_left t _

/-- An inverse stays one when it is reduced. -/
theorem emod_mul_modEq_one {e t a : Int} (ha : a * e ≡ 1 [ZMOD t]) : a % t * e ≡ 1 [ZMOD t] :=
  ((Int.mod_modEq a t).mul_right e).trans ha

/-- Two inverses of a number are congruent, so the one below the modulus is the remainder of the other. -/
theorem inverse_eq_emod {e t a x : Int} (hgcd : Int.gcd e t = 1) (ha : a * e ≡ 1 [ZMOD t]) (h0 : 0 ≤ x) (hlt : x < t)
    (hx : x * e ≡ 1 [ZMOD t]) : x = a % t := by
  have hcancel : x ≡ a [ZMOD t] := by
    simpa [Int.gcd_comm t e, hgcd] using Int.ModEq.cancel_right_div_gcd (h0.trans_lt hlt) (hx.trans ha.symm)
  exact eq_emod_of_dvd_sub h0 hlt hcancel.dvd

/-! ## The rule, outcome by outcome (42_modular_inverse.md R141) -/

/-- A non-negative operand and a positive modulus pass the sign and zero checks. -/
theorem modinvRule_eq {L : Latch} (he : 0 ≤ L.a) (ht : 0 < L.b) (rd : RegNum) :
    modinvRule rd L = inverseRule rd L.a L.b := by
  rw [modinvRule, checkUnsigned_two he ht.le, checkModulus_pass ht.ne']

theorem inverseRule_notCoprime {e t : Int} (he : 0 ≤ e) (ht : 0 ≤ t) (hgcd : Int.gcd e t ≠ 1) (rd : RegNum) :
    inverseRule rd e t = .err .notCoprime := by
  simp [inverseRule, euclid_toNat he ht, hgcd]

/-- Modulo 1 every residue is 0, so the Bézout check fails (42_modular_inverse.md R142). -/
theorem inverseRule_one (e : Int) (rd : RegNum) : inverseRule rd e 1 = .err .postcond := by
  have hgcd : euclid e.toNat 1 = 1 := by rw [euclid_eq_gcd, Nat.gcd_one_right]
  have hmod : ∀ x : Int, modulo x 1 = 0 := fun x => by rw [modulo_eq_emod x one_pos.le, Int.emod_one]
  simp [inverseRule, hgcd, hmod]

/-- For coprime operands and a modulus from 2 on both checks pass (42_modular_inverse.md R142). -/
theorem inverseRule_coprime {e t : Int} (he : 0 ≤ e) (ht : 2 ≤ t) (hgcd : Int.gcd e t = 1) (rd : RegNum) :
    inverseRule rd e t = okOne rd ((bezout e.toNat t.toNat).1 % t) := by
  have ht0 : 0 ≤ t := by omega
  have hone : (1 : Int) % t = 1 := Int.emod_eq_of_lt one_pos.le (by omega)
  have hinverse := bezout_mul_modEq_one he ht0 hgcd
  simp [inverseRule, euclid_toNat he ht0, hgcd, modulo_eq_emod _ ht0, hinverse.eq.trans hone,
    (emod_mul_modEq_one hinverse).eq.trans hone]

/-! ## MODINV (42_modular_inverse.md R142, R143) -/

/-- A command in flight whose rule is an error on the live operands fails with its code (60_exceptions.md R183). -/
theorem inFlightIs_failed {i : Instr} {s : State} {code : ErrorCode} (h : InFlightIs i s)
    (hrule : ruleOf s.params i (latchSources i s) = .err code) :
    ∃ t, exec i s = .next t ∧ CommandFailed (codeOf code) s t := by
  obtain ⟨f, hf, -, hexec⟩ := inFlightIs_exec h
  rw [hrule] at hexec
  exact ⟨_, hexec, finish_err_failed hf code⟩

/-- From ERR = 0 a failed completion records its code, so it has one code only (10_state.md R34). -/
theorem commandFailed_code_unique {c c' : BitVec 8} {s t : State} (herr : s.err = false) (h : CommandFailed c s t)
    (h' : CommandFailed c' s t) : c = c' := by
  obtain ⟨⟨f, -, -, hrec⟩, -⟩ := h
  obtain ⟨⟨f', -, -, hrec'⟩, -⟩ := h'
  obtain ⟨hcode, -⟩ := hrec herr
  obtain ⟨hcode', -⟩ := hrec' herr
  exact hcode.symm.trans hcode'

/-- Settles O28: MODINV writes Bézout's coefficient, reduced, and any inverse below the modulus is that one. -/
theorem modinvReturnsTheInverse : Obligations.ModinvReturnsTheInverse := by
  unfold Obligations.ModinvReturnsTheInverse
  intro s rd ra rb h he ht hgcd
  have hpos : 0 < readReg rb s := by omega
  have hinverse := bezout_mul_modEq_one he hpos.le hgcd
  obtain ⟨u, hexec, hu⟩ :=
    inFlightIs_commitsOne h ((modinvRule_eq he hpos rd).trans (inverseRule_coprime he ht hgcd rd))
  exact ⟨_, u, hexec, hu, Int.emod_nonneg _ hpos.ne', Int.emod_lt_of_pos _ hpos,
    emod_mul_modEq_one hinverse, fun _ => inverse_eq_emod hgcd hinverse⟩

/-- Settles O33: the coprimality check is the first after the sign and zero checks. -/
theorem modinvOfNonCoprimeFails : Obligations.ModinvOfNonCoprimeFails := by
  unfold Obligations.ModinvOfNonCoprimeFails
  intro s rd ra rb h he ht hgcd
  exact inFlightIs_failed h ((modinvRule_eq he ht rd).trans (inverseRule_notCoprime he ht.le hgcd rd))

/-- At modulus 1 MODINV fails with POSTCOND, whatever the operand (42_modular_inverse.md R142). -/
theorem modinv_one_failed {s : State} {rd ra rb : RegNum} (h : InFlightIs (.modinv rd ra rb) s)
    (he : 0 ≤ readReg ra s) (ht : readReg rb s = 1) :
    ∃ t, exec (.modinv rd ra rb) s = .next t ∧ CommandFailed 0x08 s t := by
  have hrule : inverseRule rd (readReg ra s) (readReg rb s) = .err .postcond := by rw [ht, inverseRule_one]
  exact inFlightIs_failed h ((modinvRule_eq he (by simp [latchSources, ht]) rd).trans hrule)

/-- Settles O34: from modulus 2 on the completion is the commit of O28, which keeps ERR = 0, or the failure of O33, which
records another code. -/
theorem modinvPostconditionFailsExactlyAtOne : Obligations.ModinvPostconditionFailsExactlyAtOne := by
  unfold Obligations.ModinvPostconditionFailsExactlyAtOne
  intro s t rd ra rb _ herr h hexec he ht
  have hunique {u : State} (hu : exec (.modinv rd ra rb) s = .next u) : u = t := by simpa [hu] using hexec
  constructor
  · intro hfailed
    by_contra hne
    by_cases hgcd : Int.gcd (readReg ra s) (readReg rb s) = 1
    · obtain ⟨d, u, hu, ⟨-, -, -, -, -, hkept, -⟩, -⟩ := modinvReturnsTheInverse s rd ra rb h he (by omega) hgcd
      obtain rfl := hunique hu
      obtain ⟨-, hset, -⟩ := hfailed
      simp [hset, herr] at hkept
    · obtain ⟨u, hu, hfailed'⟩ := modinvOfNonCoprimeFails s rd ra rb h he ht hgcd
      obtain rfl := hunique hu
      exact absurd (commandFailed_code_unique herr hfailed hfailed') (by decide)
  · intro hone
    obtain ⟨u, hu, hfailed⟩ := modinv_one_failed h he hone
    exact hunique hu ▸ hfailed

end Sys2Proof.Machine

/-! # The cipher commands

When TRANSFORM and CRTDEC complete and when they fail, and what an RSA key makes of their values (43_cipher.md R151 to
R160). -/

namespace Sys2Proof.Machine

/-! ## TRANSFORM (43_cipher.md R151, R152) -/

theorem gcd_toNat {a b : Int} (ha : 0 ≤ a) (hb : 0 ≤ b) : Nat.gcd a.toNat b.toNat = Int.gcd a b := by
  rw [← euclid_eq_gcd, euclid_toNat ha hb]

/-- Non-negative operands pass the sign check, and the message's preconditions are next (60_exceptions.md R182). -/
theorem transformRule_unsigned {L : Latch} (ha : 0 ≤ L.a) (hb : 0 ≤ L.b) (hc : 0 ≤ L.c) (rd : RegNum) :
    transformRule rd L =
      checkMessage L.a.toNat L.c.toNat (okOne rd (modpow L.a.toNat L.b.toNat L.c.toNat)) := by
  rw [transformRule, checkUnsigned_pass (by simp [ha, hb, hc])]

theorem transformRule_eq {L : Latch} (ha : 0 ≤ L.a) (hb : 0 ≤ L.b) (hlt : L.a < L.c)
    (hg : Nat.gcd (Int.gcd L.a L.c) (L.c.toNat / Int.gcd L.a L.c) = 1) (rd : RegNum) :
    transformRule rd L = okOne rd (L.a ^ L.b.toNat % L.c) := by
  have hc : 0 < L.c := by omega
  rw [← gcd_toNat ha hc.le] at hg
  rw [transformRule_unsigned ha hb hc.le, checkMessage_pass (by omega) hg, modpow_toNat _ ha hc]

theorem transformRule_range {L : Latch} (ha : 0 ≤ L.a) (hb : 0 ≤ L.b) (hc : 0 ≤ L.c) (hle : L.c ≤ L.a) (rd : RegNum) :
    transformRule rd L = .err .range := by
  rw [transformRule_unsigned ha hb hc, checkMessage_range (by omega)]

theorem transformRule_genCoprime {L : Latch} (ha : 0 ≤ L.a) (hb : 0 ≤ L.b) (hlt : L.a < L.c)
    (hg : Nat.gcd (Int.gcd L.a L.c) (L.c.toNat / Int.gcd L.a L.c) ≠ 1) (rd : RegNum) :
    transformRule rd L = .err .genCoprime := by
  have hc : 0 < L.c := by omega
  rw [← gcd_toNat ha hc.le] at hg
  rw [transformRule_unsigned ha hb hc.le, checkMessage_genCoprime (by omega) hg]

/-- Settles O29: past its preconditions TRANSFORM is square-and-multiply (`modpow_eq_pow_mod`). -/
theorem transformWritesThePower : Obligations.TransformWritesThePower := by
  unfold Obligations.TransformWritesThePower
  intro s rd ra rb rc h ha hb hlt hg
  exact inFlightIs_commitsOne h (transformRule_eq ha hb hlt hg rd)

/-- Settles O35: the range check is the first after the sign check, the generalized condition the second. -/
theorem transformPreconditionsFail : Obligations.TransformPreconditionsFail := by
  unfold Obligations.TransformPreconditionsFail
  refine ⟨?_, ?_⟩
  · intro s rd ra rb rc h ha hb hc hle
    exact inFlightIs_failed h (transformRule_range ha hb hc hle rd)
  · intro s rd ra rb rc h ha hb hlt hg
    exact inFlightIs_failed h (transformRule_genCoprime ha hb hlt hg rd)

/-! ## The rule of CRTDEC, outcome by outcome (43_cipher.md R156) -/

/-- The latch of a CRTDEC on `c` with the key block `p, q, dp, dq, qInv` (10_state.md R40). -/
def crtLatch (c p q dp dq : Nat) (qInv : Int) : Latch :=
  { a := c, p := p, q := q, dp := dp, dq := dq, qInv := qInv }

theorem latchSources_crtdec {s : State} {ra rb : RegNum} {c p q dp dq : Nat} {qInv : Int} (hc : readReg ra s = c)
    (hp : readReg rb s = p) (hq : readReg (rb + 1) s = q) (hdp : readReg (rb + 2) s = dp)
    (hdq : readReg (rb + 3) s = dq) (hqInv : readReg (rb + 4) s = qInv) (rd : RegNum) :
    latchSources (.crtdec rd ra rb) s = crtLatch c p q dp dq qInv := by
  simp only [latchSources, crtLatch, hc, hp, hq, hdp, hdq, hqInv]

/-- A CRTDEC in flight has its key block within the register file (30_encoding.md R86). -/
theorem InFlightIs.crtdec_block {rd ra rb : RegNum} {s : State} (h : InFlightIs (.crtdec rd ra rb) s) :
    ¬ 11 < rb.toNat := by
  obtain ⟨f, -, hwf, -⟩ := inFlightIs_exec h
  simpa [Instr.wellFormed] using hwf

/-- The end of CRTDEC's rule: a result that does not fit is OVERFLOW (43_cipher.md R157; 00_scope.md R7). -/
def okIfFits (params : Params) (rd : RegNum) (m : Int) : Result := if fits params m then okOne rd m else .err .overflow

section
variable {params : Params} {rd rb : RegNum} {c p q : Nat} {qInv : Int}

theorem crtdecRule_smallPrime (hrb : ¬ 11 < rb.toNat) (hqInv : 0 ≤ qInv) (hsmall : p ≤ 2 ∨ q ≤ 2) (dp dq : Nat) :
    crtdecRule params rd rb (crtLatch c p q dp dq qInv) = .err .smallPrime := by
  rw [crtdecRule, if_neg hrb, checkUnsigned_pass (by simp [crtLatch, hqInv]), if_pos (by simpa [crtLatch] using hsmall)]

/-- Non-negative operands and primes above 2 pass their checks, and the message's preconditions are next
(60_exceptions.md R182). -/
theorem crtdecRule_largePrimes (hrb : ¬ 11 < rb.toNat) (hqInv : 0 ≤ qInv) (hp : 2 < p) (hq : 2 < q) (dp dq : Nat) :
    crtdecRule params rd rb (crtLatch c p q dp dq qInv) =
      checkMessage c (p * q) (okIfFits params rd (crtValue c p q dp dq qInv)) := by
  have hmul : ((p : Int) * q).toNat = p * q := by rw [← Nat.cast_mul, Int.toNat_natCast]
  rw [crtdecRule, if_neg hrb, checkUnsigned_pass (by simp [crtLatch, hqInv]), if_neg (by simp [crtLatch, hp, hq])]
  change checkMessage c ((p : Int) * q).toNat (okIfFits params rd (crtValue c p q dp dq qInv)) = _
  rw [hmul]

end

/-! ## The value of the combiner (43_cipher.md R156, R157, R160) -/

/-- Garner's combination of residues modulo `q` and `p` is below `p·q`. -/
theorem combination_bounds {m₂ h p q : Int} (h₂ : 0 ≤ m₂) (h₂q : m₂ < q) (hh : 0 ≤ h) (hhp : h < p) :
    0 ≤ m₂ + h * q ∧ m₂ + h * q < p * q := by
  have hq : 0 ≤ q := by omega
  constructor
  · positivity
  · calc m₂ + h * q < q + h * q := by omega
      _ = (h + 1) * q := by ring
      _ ≤ p * q := by gcongr; omega

section
variable {p q : Nat} (hp : 0 < p) (hq : 0 < q) (c dp dq : Nat) (qInv : Int)
include hp hq

theorem crtValue_eq :
    crtValue c p q dp dq qInv =
      (c ^ dq % q : Nat) + qInv * ((c ^ dp % p : Nat) - (c ^ dq % q : Nat)) % p * q := by
  simp only [crtValue, modpow_eq_pow_mod _ _ hp, modpow_eq_pow_mod _ _ hq, modulo_eq_emod _ (Nat.cast_nonneg p)]

theorem crtValue_bounds : 0 ≤ crtValue c p q dp dq qInv ∧ crtValue c p q dp dq qInv < p * q := by
  rw [crtValue_eq hp hq]
  have hm₂ := Nat.mod_lt (c ^ dq) hq
  exact combination_bounds (Nat.cast_nonneg _) (by exact_mod_cast hm₂) (Int.emod_nonneg _ (by omega))
    (Int.emod_lt_of_pos _ (by omega))

/-- Modulo `q` the combination is `m2`. -/
theorem crtValue_modEq_right : crtValue c p q dp dq qInv ≡ c ^ dq [ZMOD q] := by
  rw [crtValue_eq hp hq, Int.natCast_mod, Nat.cast_pow]
  simp [Int.ModEq]

/-- Modulo `p` it is `m1`, for `h·q ≡ qInv·q·(m1 - m2)`. -/
theorem crtValue_modEq_left (hqInv : q * qInv ≡ 1 [ZMOD p]) : crtValue c p q dp dq qInv ≡ c ^ dp [ZMOD p] := by
  rw [crtValue_eq hp hq]
  set m₁ : Int := ((c ^ dp % p : Nat) : Int)
  set m₂ : Int := ((c ^ dq % q : Nat) : Int)
  have hm₁ : m₁ ≡ c ^ dp [ZMOD p] := by simp [m₁, Int.ModEq]
  calc m₂ + qInv * (m₁ - m₂) % p * q
      ≡ m₂ + qInv * (m₁ - m₂) * q [ZMOD p] := ((Int.mod_modEq _ _).mul_right _).add_left _
    _ = m₂ + q * qInv * (m₁ - m₂) := by ring
    _ ≡ m₂ + 1 * (m₁ - m₂) [ZMOD p] := (hqInv.mul_right _).add_left _
    _ = m₁ := by ring
    _ ≡ c ^ dp [ZMOD p] := hm₁

end

/-! ## CRTDEC (43_cipher.md R156, R157) -/

theorem okIfFits_of_lt {params : Params} {m : Int} (h0 : 0 ≤ m) (hlt : m < 2 ^ params.opw) (rd : RegNum) :
    okIfFits params rd m = okOne rd m := by
  have hfits : m.natAbs < 2 ^ params.opw := by zify; rwa [abs_of_nonneg h0]
  rw [okIfFits, if_pos ((fits_iff _ _).mpr hfits)]

theorem okIfFits_of_le {params : Params} {m : Int} (hle : 2 ^ params.opw ≤ m) (rd : RegNum) :
    okIfFits params rd m = .err .overflow := by
  have hfits : ¬ m.natAbs < 2 ^ params.opw := by zify; exact not_lt.mpr (hle.trans (le_abs_self m))
  rw [okIfFits, if_neg (mt (fits_iff _ _).mp hfits)]

/-- Settles O30: past its preconditions CRTDEC ends with the combination, which `crtValue_bounds` bounds. -/
theorem crtdecWritesTheCombination : Obligations.CrtdecWritesTheCombination := by
  unfold Obligations.CrtdecWritesTheCombination
  rintro s rd ra rb c p q dp dq qInv h hc hp hq hdp hdq hqInv hqInv0 hp2 hq2 hlt hg _ _ _ m rfl rfl rfl hm hfit
  rw [← crtValue_eq (by omega) (by omega)] at hm
  obtain ⟨h0, hbound⟩ := crtValue_bounds (p := p) (q := q) (by omega) (by omega) c dp dq qInv
  rw [← hm] at h0 hbound
  refine ⟨inFlightIs_commitsOne h ?_, h0, hbound⟩
  rw [latchSources_crtdec hc hp hq hdp hdq hqInv, ruleOf, crtdecRule_largePrimes h.crtdec_block hqInv0 hp2 hq2,
    checkMessage_pass hlt hg, ← hm, okIfFits_of_lt h0 hfit]

/-- Settles O37: the same combination, when it does not fit. -/
theorem crtdecOverflowFails : Obligations.CrtdecOverflowFails := by
  unfold Obligations.CrtdecOverflowFails
  rintro s rd ra rb c p q dp dq qInv h hc hp hq hdp hdq hqInv hqInv0 hp2 hq2 hlt hg _ _ _ rfl rfl rfl hover
  rw [← crtValue_eq (by omega) (by omega)] at hover
  refine inFlightIs_failed (code := .overflow) h ?_
  rw [latchSources_crtdec hc hp hq hdp hdq hqInv, ruleOf, crtdecRule_largePrimes h.crtdec_block hqInv0 hp2 hq2,
    checkMessage_pass hlt hg, okIfFits_of_le hover]

/-- Settles O36: the checks of the rule in its order, each reached by passing those before it. -/
theorem crtdecPreconditionsFail : Obligations.CrtdecPreconditionsFail := by
  unfold Obligations.CrtdecPreconditionsFail
  intro s rd ra rb c p q dp dq qInv h hc hp hq hdp hdq hqInv
  have hlatch := latchSources_crtdec hc hp hq hdp hdq hqInv rd
  have hrb := h.crtdec_block
  have hqInv0 : (0 : Int) ≤ qInv := Nat.cast_nonneg qInv
  refine ⟨fun hsmall => inFlightIs_failed (code := .smallPrime) h ?_,
    fun hp2 hq2 hle => inFlightIs_failed (code := .range) h ?_,
    fun hp2 hq2 hlt hg => inFlightIs_failed (code := .genCoprime) h ?_⟩
  · rw [hlatch, ruleOf, crtdecRule_smallPrime hrb hqInv0 hsmall]
  · rw [hlatch, ruleOf, crtdecRule_largePrimes hrb hqInv0 hp2 hq2, checkMessage_range hle]
  · rw [hlatch, ruleOf, crtdecRule_largePrimes hrb hqInv0 hp2 hq2, checkMessage_genCoprime hlt hg]

/-! ## RSA keys (43_cipher.md R153, R158) -/

/-- For a squarefree modulus every message meets the generalized condition (43_cipher.md R152). -/
theorem gcd_div_gcd_of_squarefree {n : Nat} (hn : Squarefree n) (x : Nat) :
    Nat.gcd (Nat.gcd x n) (n / Nat.gcd x n) = 1 := by
  refine Nat.coprime_of_squarefree_mul ?_
  rwa [Nat.mul_div_cancel' (Nat.gcd_dvd_right x n)]

theorem squarefree_prime_mul_prime {p q : Nat} (hp : p.Prime) (hq : q.Prime) (hne : p ≠ q) : Squarefree (p * q) :=
  Nat.squarefree_mul_iff.mpr ⟨(Nat.coprime_primes hp hq).mpr hne, hp.squarefree, hq.squarefree⟩

/-- TRANSFORM with a squarefree modulus completes for every message below it. -/
theorem transform_commits_of_squarefree {s : State} {rd ra rb rc : RegNum} {x e n : Nat}
    (h : InFlightIs (.transform rd ra rb rc) s) (hx : readReg ra s = x) (he : readReg rb s = e)
    (hn : readReg rc s = n) (hsq : Squarefree n) (hlt : x < n) :
    ∃ t, exec (.transform rd ra rb rc) s = .next t ∧ CommitsOne rd (x ^ e % n : Nat) s t := by
  have hwrites := transformWritesThePower s rd ra rb rc h
  simp only [hx, he, hn, Int.gcd_natCast_natCast, Int.toNat_natCast] at hwrites
  exact_mod_cast hwrites (by omega) (by omega) (by omega) (gcd_div_gcd_of_squarefree hsq x)

/-- The exponents of a key, modulo each prime's order: `e·d` is 1 more than a multiple of `p - 1` and of `q - 1`. -/
theorem dvd_of_key {p q e d : Nat} (hkey : e * d % Nat.lcm (p - 1) (q - 1) = 1) :
    0 < e * d ∧ p - 1 ∣ e * d - 1 ∧ q - 1 ∣ e * d - 1 := by
  have hdvd : Nat.lcm (p - 1) (q - 1) ∣ e * d - 1 := by
    simpa only [hkey] using Nat.dvd_sub_mod (n := Nat.lcm (p - 1) (q - 1)) (e * d)
  have hpos : e * d ≠ 0 := fun h0 => by simp [h0] at hkey
  exact ⟨Nat.pos_of_ne_zero hpos, (Nat.dvd_lcm_left _ _).trans hdvd, (Nat.dvd_lcm_right _ _).trans hdvd⟩

/-- With distinct primes the exponents of a key undo each other, also on a message that shares a factor with `p·q`. -/
theorem pow_key_modEq {p q e d : Nat} (hp : p.Prime) (hq : q.Prime) (hne : p ≠ q)
    (hkey : e * d % Nat.lcm (p - 1) (q - 1) = 1) (m : Nat) : m ^ (e * d) ≡ m [MOD p * q] := by
  obtain ⟨hpos, hdp, hdq⟩ := dvd_of_key hkey
  have hprime {r : Nat} (hr : r.Prime) (hdvd : r - 1 ∣ e * d - 1) : m ^ (e * d) ≡ m [MOD r] := by
    rw [← Int.natCast_modEq_iff, Nat.cast_pow]
    simpa using Int.ModEq.pow_eq_pow hr hdvd hpos one_pos m
  exact (Nat.modEq_and_modEq_iff_modEq_mul ((Nat.coprime_primes hp hq).mpr hne)).mp ⟨hprime hp hdp, hprime hq hdq⟩

/-- Settles O42: the result of the first TRANSFORM is below the modulus, so the second completes; its value is
`m^(e·d) mod n`. -/
theorem transformRoundTrip : Obligations.TransformRoundTrip := by
  unfold Obligations.TransformRoundTrip
  intro p q e d m hp hq hne hkey hm s₁ s₂ t₁ rd ra rb rc rd' ra' rb' rc' h₁ hra hrb hrc hexec₁ h₂ hra' hrb' hrc'
  have hsq := squarefree_prime_mul_prime hp hq hne
  obtain ⟨t, hexec, ⟨hval, -⟩, -⟩ := transform_commits_of_squarefree h₁ hra hrb hrc hsq hm
  obtain rfl : t₁ = t := by simpa [hexec₁] using hexec
  have hback : (m ^ e % (p * q)) ^ d % (p * q) = m :=
    calc (m ^ e % (p * q)) ^ d % (p * q)
        = (m ^ e) ^ d % (p * q) := (Nat.mod_modEq _ _).pow d
      _ = m % (p * q) := by rw [← pow_mul]; exact pow_key_modEq hp hq hne hkey m
      _ = m := Nat.mod_eq_of_lt hm
  have hlt : m ^ e % (p * q) < p * q := Nat.mod_lt _ (by omega)
  have hcommits := transform_commits_of_squarefree h₂ (hra'.trans hval) hrb' hrc' hsq hlt
  rwa [hback] at hcommits

/-- The private exponent of a key is no multiple of `p - 1` from `p = 3` on: it is invertible modulo `p - 1`. -/
theorem mod_pred_pos {p e d : Nat} (hp : 2 < p) (hpos : 0 < e * d) (hdvd : p - 1 ∣ e * d - 1) : 0 < d % (p - 1) := by
  refine Nat.pos_of_ne_zero fun h0 => ?_
  have hmul : p - 1 ∣ e * d := (Nat.dvd_of_mod_eq_zero h0).mul_left e
  have hone : p - 1 ∣ 1 := (Nat.dvd_sub_iff_right hpos hmul).mp hdvd
  have := Nat.le_of_dvd one_pos hone
  omega

/-- Modulo a prime, a private exponent may be reduced modulo `p - 1` (43_cipher.md R158), also where `p` divides `c`:
neither exponent is 0. -/
theorem pow_mod_pred_modEq {p e d : Nat} (hprime : p.Prime) (hp : 2 < p) (hpos : 0 < e * d)
    (hdvd : p - 1 ∣ e * d - 1) (c : Nat) : (c : Int) ^ (d % (p - 1)) ≡ c ^ d [ZMOD p] :=
  (Int.ModEq.pow_eq_pow hprime (Nat.dvd_sub_mod d) (Nat.mod_le _ _) (mod_pred_pos hp hpos hdvd) c).symm

/-- With a valid key the combiner's value is `c^d mod p·q`, by the Chinese remainder theorem (43_cipher.md R158). -/
theorem crtValue_eq_pow_mod {p q e d qInv : Nat} (hp : p.Prime) (hq : q.Prime) (hne : p ≠ q) (hp2 : 2 < p)
    (hq2 : 2 < q) (hkey : e * d % Nat.lcm (p - 1) (q - 1) = 1) (hqInv : q * qInv % p = 1) (c : Nat) :
    crtValue c p q (d % (p - 1)) (d % (q - 1)) qInv = (c ^ d % (p * q) : Nat) := by
  obtain ⟨hpos, hdp, hdq⟩ := dvd_of_key hkey
  have hinverse : (q : Int) * qInv ≡ 1 [ZMOD p] := by
    have : q * qInv ≡ 1 [MOD p] := hqInv.trans (Nat.mod_eq_of_lt (by omega)).symm
    exact_mod_cast Int.natCast_modEq_iff.mpr this
  have hleft := (crtValue_modEq_left hp.pos hq.pos c (d % (p - 1)) (d % (q - 1)) qInv hinverse).trans
    (pow_mod_pred_modEq hp hp2 hpos hdp c)
  have hright := (crtValue_modEq_right hp.pos hq.pos c (d % (p - 1)) (d % (q - 1)) qInv).trans
    (pow_mod_pred_modEq hq hq2 hpos hdq c)
  have hmodEq := (Int.modEq_and_modEq_iff_modEq_mul (by simpa using (Nat.coprime_primes hp hq).mpr hne)).mp
    ⟨hleft, hright⟩
  obtain ⟨h0, hlt⟩ := crtValue_bounds hp.pos hq.pos c (d % (p - 1)) (d % (q - 1)) qInv
  rw [Int.natCast_mod, Nat.cast_mul, Nat.cast_pow]
  exact eq_emod_of_dvd_sub h0 hlt hmodEq.dvd

/-- Settles O43: both preconditions hold, and both values are `c^d mod p·q`. -/
theorem crtdecEqualsTransform : Obligations.CrtdecEqualsTransform := by
  unfold Obligations.CrtdecEqualsTransform
  intro p q e d c qInv hp hq hne hp2 hq2 hkey _ hinv hlt s₁ s₂ rd ra rb rd' ra' rb' rc' hn h₁ hra hrb hq' hdp hdq hqInv
    h₂ hra' hrb' hrc'
  have hsq := squarefree_prime_mul_prime hp hq hne
  have hval := crtValue_eq_pow_mod hp hq hne hp2 hq2 hkey hinv c
  rw [crtValue_eq hp.pos hq.pos] at hval
  have hfit : ((c ^ d % (p * q) : Nat) : Int) < 2 ^ s₁.params.opw := by
    exact_mod_cast (Nat.mod_lt _ (by omega)).trans hn
  obtain ⟨⟨t₁, hexec₁, hcommits₁⟩, -⟩ := crtdecWritesTheCombination s₁ rd ra rb c p q _ _ qInv h₁ hra hrb hq' hdp hdq
    hqInv (Nat.cast_nonneg _) hp2 hq2 hlt (gcd_div_gcd_of_squarefree hsq c) _ _ _ _ rfl rfl rfl hval.symm hfit
  obtain ⟨t₂, hexec₂, hcommits₂⟩ := transform_commits_of_squarefree h₂ hra' hrb' hrc' hsq hlt
  exact ⟨_, t₁, t₂, hexec₁, hcommits₁, hexec₂, hcommits₂⟩

end Sys2Proof.Machine

/-! # Register movement and control

What NOP, LDI and MOV write (44_move_and_control.md R170 to R172). -/

namespace Sys2Proof.Machine

/-- A commit of no write and no primary result leaves the registers and the flags (10_state.md R33, R42). -/
theorem finish_ok_nil_none_unchanged (f : InFlight) (s : State) :
    (finish f (.ok [] none) s).regs = s.regs ∧ SameFlags s (finish f (.ok [] none) s) := by
  rw [finish_ok]
  exact ⟨rfl, rfl, rfl, rfl⟩

/-- Settles O19: the rule of NOP has nothing to write and no primary result. -/
theorem nopSetsDone : Obligations.NopSetsDone := by
  unfold Obligations.NopSetsDone
  intro s h
  obtain ⟨f, -, -, hexec⟩ := inFlightIs_exec h
  rw [ruleOf] at hexec
  obtain ⟨hregs, hflags⟩ := finish_ok_nil_none_unchanged f s
  exact ⟨_, hexec, hregs, hflags, finish_ok_done f [] none s⟩

/-- Settles O20: the one result of LDI is its immediate, whatever the latch holds. -/
theorem ldiWritesTheImmediate : Obligations.LdiWritesTheImmediate := by
  unfold Obligations.LdiWritesTheImmediate
  intro s rd imm h
  have hrule : ruleOf s.params (.ldi rd imm) (latchSources (.ldi rd imm) s) = okOne rd imm.toNat := by rw [ruleOf]
  exact inFlightIs_commitsOne h hrule

/-- Settles O21: the one result of MOV is the latched value of RA, so that `rd = ra` needs no case of its own. -/
theorem movCopiesTheSignedValue : Obligations.MovCopiesTheSignedValue := by
  unfold Obligations.MovCopiesTheSignedValue
  intro s rd ra h
  have hrule : ruleOf s.params (.mov rd ra) (latchSources (.mov rd ra) s) = okOne rd (readReg ra s) := by
    rw [ruleOf, latchSources]
  exact inFlightIs_commitsOne h hrule

end Sys2Proof.Machine

/-! # Errors and the interrupt level

The sign and zero checks of the commands, the level of `irq`, and why no step stops (60_exceptions.md R180 to R191). -/

namespace Sys2Proof.Machine

/-! ## Unsigned sources (60_exceptions.md R182; 00_scope.md R13) -/

/-- The unsigned source registers of a command, those marked U in 30_encoding.md R87. -/
def unsignedSources : Instr → List RegNum
  | .nop => []
  | .ldi _ _ => []
  | .mov _ _ => []
  | .mod _ _ rb => [rb]
  | .gcd _ ra rb => [ra, rb]
  | .coprime _ ra rb => [ra, rb]
  | .eea _ ra rb _ => [ra, rb]
  | .modmul _ ra rb rc => [ra, rb, rc]
  | .modpow _ ra rb rc => [ra, rb, rc]
  | .modinv _ ra rb => [ra, rb]
  | .transform _ ra rb rc => [ra, rb, rc]
  | .crtdec _ ra rb => [ra, rb, rb + 1, rb + 2, rb + 3, rb + 4]

/-- The sign check of a well-formed command is on exactly these registers and comes before the command's own checks. -/
theorem ruleOf_negOperand {i : Instr} {s : State} (hwf : i.wellFormed = true)
    (h : ∃ r ∈ unsignedSources i, readReg r s < 0) :
    ruleOf s.params i (latchSources i s) = .err .negOperand := by
  have hfail (own : Result) :
      checkUnsigned ((unsignedSources i).map fun r => readReg r s) own = .err .negOperand :=
    checkUnsigned_fail (by simpa using h) own
  cases i with
  | nop => simp [unsignedSources] at h
  | ldi rd imm => simp [unsignedSources] at h
  | mov rd ra => simp [unsignedSources] at h
  | mod rd ra rb => exact hfail _
  | gcd rd ra rb => exact hfail _
  | coprime rd ra rb => exact hfail _
  | eea rd ra rb rc =>
    have hne : rd ≠ rc := by simpa [Instr.wellFormed] using hwf
    rw [ruleOf, eeaRule, if_neg hne]
    exact hfail _
  | modmul rd ra rb rc => exact hfail _
  | modpow rd ra rb rc => exact hfail _
  | modinv rd ra rb => exact hfail _
  | transform rd ra rb rc => exact hfail _
  | crtdec rd ra rb =>
    have hrb : ¬ 11 < rb.toNat := by simpa [Instr.wellFormed] using hwf
    rw [ruleOf, crtdecRule, if_neg hrb]
    exact hfail _

/-- A command in flight with a negative unsigned source fails with NEG_OPERAND. -/
theorem inFlightIs_negOperand {i : Instr} {s : State} (h : InFlightIs i s)
    (hneg : ∃ r ∈ unsignedSources i, readReg r s < 0) :
    ∃ t, exec i s = .next t ∧ CommandFailed 0x02 s t := by
  obtain ⟨f, -, hwf, -⟩ := inFlightIs_exec h
  exact inFlightIs_failed h (ruleOf_negOperand hwf hneg)

/-- Settles O31: every clause is `inFlightIs_negOperand` at the command's own unsigned sources. -/
theorem negativeOperandFails : Obligations.NegativeOperandFails := by
  unfold Obligations.NegativeOperandFails
  have hone {s : State} {a : RegNum} (h : readReg a s < 0) : ∃ r ∈ [a], readReg r s < 0 := by simpa using h
  have htwo {s : State} {a b : RegNum} (h : readReg a s < 0 ∨ readReg b s < 0) :
      ∃ r ∈ [a, b], readReg r s < 0 := by simpa using h
  have hthree {s : State} {a b c : RegNum} (h : readReg a s < 0 ∨ readReg b s < 0 ∨ readReg c s < 0) :
      ∃ r ∈ [a, b, c], readReg r s < 0 := by simpa using h
  refine ⟨?mod, ?gcd, ?coprime, ?eea, ?modmul, ?modpow, ?modinv, ?transform, ?crtdec⟩
  case mod => exact fun s rd ra rb h hneg => inFlightIs_negOperand h (hone hneg)
  case gcd => exact fun s rd ra rb h hneg => inFlightIs_negOperand h (htwo hneg)
  case coprime => exact fun s rd ra rb h hneg => inFlightIs_negOperand h (htwo hneg)
  case eea => exact fun s rd ra rb rc h hneg => inFlightIs_negOperand h (htwo hneg)
  case modmul => exact fun s rd ra rb rc h hneg => inFlightIs_negOperand h (hthree hneg)
  case modpow => exact fun s rd ra rb rc h hneg => inFlightIs_negOperand h (hthree hneg)
  case modinv => exact fun s rd ra rb h hneg => inFlightIs_negOperand h (htwo hneg)
  case transform => exact fun s rd ra rb rc h hneg => inFlightIs_negOperand h (hthree hneg)
  case crtdec => exact fun s rd ra rb h hneg => inFlightIs_negOperand h hneg

/-! ## A zero modulus (60_exceptions.md R181, R182) -/

/-- Past the sign check a zero modulus is the next failure. -/
theorem checkUnsigned_checkModulus_zero {vs : List Int} {n : Int} (h : ∀ v ∈ vs, 0 ≤ v) (hn : n = 0) (own : Result) :
    checkUnsigned vs (checkModulus n own) = .err .modZero := by
  rw [checkUnsigned_pass h, hn, checkModulus_zero]

/-- Settles O32: the other operands pass the sign check, and so does the modulus 0. -/
theorem zeroModulusFails : Obligations.ZeroModulusFails := by
  unfold Obligations.ZeroModulusFails
  have hthree {a b n : Int} (ha : 0 ≤ a) (hb : 0 ≤ b) (hn : n = 0) : ∀ v ∈ [a, b, n], 0 ≤ v := by
    simp [ha, hb, hn]
  refine ⟨?mod, ?modmul, ?modpow, ?modinv⟩
  case mod =>
    intro s rd ra rb h hn
    exact inFlightIs_failed (code := .modZero) h (checkUnsigned_checkModulus_zero (by simp [latchSources, hn]) hn _)
  case modmul =>
    intro s rd ra rb rc h ha hb hn
    exact inFlightIs_failed (code := .modZero) h (checkUnsigned_checkModulus_zero (hthree ha hb hn) hn _)
  case modpow =>
    intro s rd ra rb rc h ha hb hn
    exact inFlightIs_failed (code := .modZero) h (checkUnsigned_checkModulus_zero (hthree ha hb hn) hn _)
  case modinv =>
    intro s rd ra rb h ha hn
    exact inFlightIs_failed (code := .modZero) h
      (checkUnsigned_checkModulus_zero (by simp [latchSources, ha, hn]) hn _)

/-! ## The interrupt level (60_exceptions.md R188) -/

theorem irqLevel_iff (s : State) : irqLevel s = true ↔ s.irqEn = true ∧ (s.done = true ∨ s.err = true) := by
  simp [irqLevel]

/-- Settles O54: the level is bit 5 of the STATUS word (`getLsbD_statusWord`). -/
theorem interruptLevel : Obligations.InterruptLevel := by
  unfold Obligations.InterruptLevel
  intro s
  exact ⟨irqLevel_iff s, statusWord s, rfl, getLsbD_statusWord s 5⟩

/-! ## No step stops (60_exceptions.md R180, R191) -/

/-- Settles O7: an access and a reset are answered by definition, a turn of the engine by `engineTurn_next`, which runs a
command only while one is in flight. -/
theorem everyStepAnswersNextState : Obligations.EveryStepAnswersNextState := by
  unfold Obligations.EveryStepAnswersNextState
  intro s
  rcases step_cases s with ⟨a, t, -, hstep⟩ | ⟨t, -, hstep⟩ | ⟨t, -, hstep⟩
  · exact ⟨_, hstep⟩
  · exact ⟨_, hstep⟩
  · obtain ⟨u, hu, -⟩ := engineTurn_next t
    exact ⟨u, hstep.trans hu⟩

end Sys2Proof.Machine

/-! # Resets and whole-register writes

What a power-on reset and a soft reset leave (70_reset_and_hazards.md R210 to R212), and that the window writes of every
limb with a REG_SIGN write load a value (R218). -/

namespace Sys2Proof.Machine

/-! ## A whole register written by the host (70_reset_and_hazards.md R218; 20_memory.md R63) -/

/-- Numbers whose k lowest limbs agree are congruent modulo 2^(32k). -/
theorem modEq_of_limbOf_eq {x y k : Nat} (h : ∀ j < k, limbOf x j = limbOf y j) : x ≡ y [MOD 2 ^ (32 * k)] := by
  induction k with
  | zero => exact Nat.modEq_one
  | succ k ih =>
    have hlow : x % 2 ^ (32 * k) = y % 2 ^ (32 * k) := ih fun j hj => h j (by omega)
    have hlimb : x / 2 ^ (32 * k) % 2 ^ 32 = y / 2 ^ (32 * k) % 2 ^ 32 := by
      rw [← toNat_limbOf, ← toNat_limbOf, h k (by omega)]
    rw [Nat.ModEq, pow_limb_succ, Nat.mod_mul, Nat.mod_mul, hlow, hlimb]

/-- A magnitude is determined by the limbs that its width has room for. -/
theorem eq_of_limbOf_eq {x y limbs : Nat} (hx : x < 2 ^ (32 * limbs)) (hy : y < 2 ^ (32 * limbs))
    (h : ∀ j < limbs, limbOf x j = limbOf y j) : x = y :=
  (modEq_of_limbOf_eq h).eq_of_lt_of_lt hx hy

/-- The host's window writes of the `k` lowest limbs of `m` to R[i], limb 0 first. -/
def hostWriteLimbs (p : Params) (i : RegNum) (m k : Nat) (s : State) : State :=
  (List.range k).foldl (fun x j =>
    hostAccess (.write (BitVec.ofNat 16 (0x1000 + 4 * (i.toNat * p.limbs + j))) .b4
      (BitVec.ofNat 32 (m / 2 ^ (32 * j)))) x) s

theorem hostWriteLimbs_succ (p : Params) (i : RegNum) (m k : Nat) (s : State) :
    hostWriteLimbs p i m (k + 1) s =
      hostAccess (.write (BitVec.ofNat 16 (0x1000 + 4 * (i.toNat * p.limbs + k))) .b4 (limbOf m k))
        (hostWriteLimbs p i m k s) := by
  rw [hostWriteLimbs, List.range_succ, List.foldl_append]
  rfl

/-- An Idle block, of parameters `p`, in which the `k` lowest limbs of R[i] are written and are those of `m`. -/
structure LimbsWritten (p : Params) (i : RegNum) (m k : Nat) (t : State) : Prop where
  params : t.params = p
  idle : t.phase = .idle
  inv : t.Inv
  limbs : ∀ j < k, limbOf (getReg i t).mag j = limbOf m j
  valid : ∀ j < k, (getReg i t).validLimbs[j]? = some true

/-- A limb write while Idle leaves the engine Idle. -/
theorem phase_hostAccess_write_limb {s : State} (hp : s.params.Valid) (hidle : s.phase = .idle) (i : RegNum) {j : Nat}
    (hj : j < s.params.limbs) (w : Word) :
    (hostAccess (.write (BitVec.ofNat 16 (0x1000 + 4 * (i.toNat * s.params.limbs + j))) .b4 w) s).phase = .idle := by
  rw [hostAccess_write_limb hp i hj, unlessBusy_idle hidle]
  exact hidle

/-- The window write of limb k of `m` adds that limb to those written, and keeps the lower ones. -/
theorem LimbsWritten.hostAccess_write {p : Params} {i : RegNum} {m k : Nat} {t : State} (h : LimbsWritten p i m k t)
    (hk : k < p.limbs) :
    LimbsWritten p i m (k + 1)
      (hostAccess (.write (BitVec.ofNat 16 (0x1000 + 4 * (i.toNat * p.limbs + k))) .b4 (limbOf m k)) t) := by
  obtain ⟨rfl, hidle, hinv, hlimbs, hvalid⟩ := h
  have ⟨hp, hregs, _, _⟩ := hinv
  obtain ⟨-, hlen⟩ := hregs i
  have hgetReg := getReg_hostAccess_write_limb hp hidle i hk (limbOf m k) i
  have hlower {j : Nat} (hj : j < k) :=
    writeLimb_other_limb (show (i, j) ≠ (i, k) by simp [hj.ne]) (limbOf m k) t
  refine ⟨hostAccess_params _ t, phase_hostAccess_write_limb hp hidle i hk _, hostAccess_inv hinv _, ?_, ?_⟩
  · intro j hj
    rw [hgetReg]
    rcases Nat.lt_succ_iff_lt_or_eq.mp hj with hj | rfl
    · exact (hlower hj).1.trans (hlimbs j hj)
    · exact limbOf_writeLimb_self i j _ t
  · intro j hj
    rw [hgetReg]
    rcases Nat.lt_succ_iff_lt_or_eq.mp hj with hj | rfl
    · exact (hlower hj).2.trans (hvalid j hj)
    · exact validLimbs_writeLimb_self (hlen.symm ▸ hk) _

theorem hostWriteLimbs_limbsWritten {s : State} (hinv : s.Inv) (hidle : s.phase = .idle) (i : RegNum) (m : Nat)
    {k : Nat} (hk : k ≤ s.params.limbs) : LimbsWritten s.params i m k (hostWriteLimbs s.params i m k s) := by
  induction k with
  | zero => exact ⟨rfl, hidle, hinv, by simp, by simp⟩
  | succ k ih =>
    rw [hostWriteLimbs_succ]
    exact (ih (by omega)).hostAccess_write hk

/-- With every limb written the magnitude is `m` and every limb is valid (10_state.md R24). -/
theorem LimbsWritten.all {p : Params} {i : RegNum} {m : Nat} {t : State} (h : LimbsWritten p i m p.limbs t)
    (hm : m < 2 ^ p.opw) : (getReg i t).mag = m ∧ (getReg i t).validLimbs = List.replicate p.limbs true := by
  obtain ⟨rfl, -, ⟨-, hregs, -, -⟩, hlimbs, hvalid⟩ := h
  obtain ⟨hmag, hlen⟩ := hregs i
  refine ⟨eq_of_limbOf_eq hmag hm hlimbs, List.ext_getElem? fun j => ?_⟩
  by_cases hj : j < t.params.limbs
  · rw [hvalid j hj, List.getElem?_replicate_of_lt hj]
  · rw [List.getElem?_eq_none (by omega), List.getElem?_eq_none (by simpa using hj)]

/-- The registers after a REG_SIGN write by an access to an Idle engine. -/
theorem getReg_hostAccess_write_regSign {s : State} (hidle : s.phase = .idle) (w : Word) (r : RegNum) :
    getReg r (hostAccess (.write 0x001C .b4 w) s) = getReg r (writeSigns w s) := by
  rw [hostAccess_write_regSign, unlessBusy_idle hidle]
  exact getReg_congr rfl r

/-- Settles O58: the register is left as a command that writes `v` would leave it, by induction on the limbs written. -/
theorem wholeRegisterWriteLoadsTheValue : Obligations.WholeRegisterWriteLoadsTheValue := by
  unfold Obligations.WholeRegisterWriteLoadsTheValue
  rintro s t u i v signs hinv hidle hv hsign ht rfl
  have hwritten : LimbsWritten s.params i v.natAbs s.params.limbs t :=
    ht ▸ hostWriteLimbs_limbsWritten hinv hidle i v.natAbs le_rfl
  obtain ⟨hmag, hvalid⟩ := hwritten.all hv
  have hreg : getReg i (hostAccess (.write 0x001C .b4 signs) t) = regOf s.params.limbs v := by
    rw [getReg_hostAccess_write_regSign hwritten.idle, getReg_writeSigns, regOf]
    simp only [hmag, hvalid, hsign]
  rw [readReg, hreg]
  exact ⟨regValue_regOf _ v, regWritten_regOf _ v⟩

/-! ## Resets (70_reset_and_hazards.md R210 to R212) -/

/-- After power-on the registers are in canonical form, ERRINFO is clear and nothing is in flight. -/
theorem powerOn_inv {p : Params} (hp : p.Valid) : (State.powerOn p).Inv :=
  inv_of_idle rfl hp (powerOn_regsWf p) (errInfoWf_of_clear rfl rfl)

/-- Settles O9; the parameters of `State.reset` are valid. -/
theorem powerOnMeetsInvariant : Obligations.PowerOnMeetsInvariant := by
  unfold Obligations.PowerOnMeetsInvariant
  have hvectors : Params.ofVectors.Valid := by decide
  exact ⟨fun _ hp => powerOn_inv hp, powerOn_inv hvectors⟩

/-- A register file of unwritten registers has every VALID bit 0 (10_state.md R24). -/
theorem valid_of_regs_unwritten {t : State} {limbs : Nat} (h : t.regs = Vector.replicate 16 (Reg.unwritten limbs))
    (i : RegNum) : (getReg i t).validSign = false ∧ ∀ j < limbs, (getReg i t).validLimbs[j]? = some false := by
  have hreg : getReg i t = Reg.unwritten limbs := by simp [getReg, h]
  rw [hreg]
  exact ⟨rfl, fun j hj => List.getElem?_replicate_of_lt hj⟩

/-- Settles O10: the VALID bits are those of unwritten registers, and the other rows stand in `State.powerOn`. -/
theorem resetLeavesTheTable : Obligations.ResetLeavesTheTable := by
  unfold Obligations.ResetLeavesTheTable
  exact ⟨valid_of_regs_unwritten rfl, rfl, rfl, rfl, rfl, rfl, rfl, rfl, rfl, rfl, rfl, rfl, rfl, rfl⟩

/-- Settles O11: the step is `powerOnReset`, whatever was in flight. -/
theorem powerOnResetsARunningBlock : Obligations.PowerOnResetsARunningBlock := by
  unfold Obligations.PowerOnResetsARunningBlock
  intro s rest hs
  refine ⟨_, step_of_powerOn hs, valid_of_regs_unwritten (powerOnReset_regs _), ?_⟩
  simp [irqLevel]

/-- Settles O55: the access is `softReset`, Idle or Busy. -/
theorem softResetKeepsTheOperandRegisters : Obligations.SoftResetKeepsTheOperandRegisters := by
  unfold Obligations.SoftResetKeepsTheOperandRegisters
  rintro s t w h1 rfl
  rw [hostAccess_write_ctrl, writeCtrl_softReset h1]
  simp [irqLevel]

end Sys2Proof.Machine
